-- ==== Sys2Proof/Word.lean ====
section
/-! DEFINITION. The word types of the block's ports and registers (spec/30_encoding.md rules R50, R57, R59;
spec/10_state.md rule R22) and the plain record of three duty counts. Bit 0 is the least significant bit of every word
(spec/00_scope.md rule R13). -/

namespace Sys2Proof

/-- One command word, `cmd` of rule R50: 64 bits, never shorter or longer (R61). -/
abbrev CmdWord := BitVec 64

/-- One response word, `rsp` of rule R57. -/
abbrev RspWord := BitVec 64

/-- The payload field `rsp[47:0]` of a response (R57, R58). -/
abbrev Payload := BitVec 48

/-- One channel-write word, `chw` of rule R59: channel in bits 17:16, duty in bits 15:0. -/
abbrev ChanWord := BitVec 18

/-- Three intensities, one per channel, in the order red, green, blue: the triple of rules R86 and R88. The members
are exact non-negative integers (R14). -/
structure Triple where
  r : Nat
  g : Nat
  b : Nat
deriving DecidableEq, Repr

end Sys2Proof
end

