-- ==== Sys2Proof/Syntax.lean ====
section
/-! DEFINITION. The six commands of spec/30_encoding.md rule R55, one constructor per row of spec/opcode_table.json, with
their operands as the formats of rule R51 give them; and the names a word that is no command is rejected under (R56). -/

namespace Sys2Proof

/-- One command. Every operand is an immediate of the command word, exactly as wide as its field (R51, R60). -/
inductive Instr where
  /-- `INIT sat, val, seed` (format I, R106). -/
  | init (sat val : BitVec 8) (seed : BitVec 32)
  /-- `ADVANCE` (format Z, R109). -/
  | advance
  /-- `NEXT_SPEED` (format Z, R73). -/
  | nextSpeed
  /-- `CONVERT hue, sat, val` (format H, R89). The nine-bit hue can hold 360 to 511, which decodes and is then refused
  with `DOMAIN` (R82). -/
  | convert (hue : BitVec 9) (sat val : BitVec 8)
  /-- `CLAMP x` (format X, R102). -/
  | clamp (x : BitVec 32)
  /-- `RDREG n` (format N, R120). The four-bit number can hold 7 to 15, which name no register (R41). -/
  | rdreg (n : BitVec 4)
deriving DecidableEq, Repr

/-- Why a word encodes no command: the three cases of rule R56. -/
inductive Reject where
  /-- R56 (a): `op` is 0x0 or 0x7 to 0xF. -/
  | reservedOpcode
  /-- R56 (b): a bit that the format marks reserved is 1. -/
  | reservedBits
  /-- R56 (c): `op` is 0x6 and `n` is 7 to 15. -/
  | reservedRegister
deriving DecidableEq, Repr

end Sys2Proof
end

