-- ==== Sys2Proof/WellFormed.lean ====
section
/-! DEFINITION. Which terms of `Instr` a legal command word spells (spec/30_encoding.md rules R55, R56). Operand widths are in
the types; the one check left is the register number of `RDREG`. A hue of 360 or more is no matter of encoding: the word
decodes and the command is refused with `DOMAIN` (R82). -/

namespace Sys2Proof

/-- The term is spelt by a legal word: a register number is 0 to 6 (R41, R56 (c)); every value of every other operand
is legal (R60). -/
def Instr.wf : Instr → Bool
  | .init _ _ _ => true
  | .advance => true
  | .nextSpeed => true
  | .convert _ _ _ => true
  | .clamp _ => true
  | .rdreg n => decide (n.toNat < 7)

end Sys2Proof
end

