-- ==== Sys2Proof/Decode.lean ====
section
/-! DEFINITION. Decoding and encoding of command words, written from the format tables of spec/30_encoding.md rule R51 and the
opcode map of rule R55. `decode` is total over all 2^64 words and rejects by name (R56); `encode` writes the word of a
command. A word has no byte order (R46): it is one 64-bit number. -/

namespace Sys2Proof

/-- `cmd[63:60]`, the opcode (R50). -/
def opField (w : CmdWord) : BitVec 4 := w.extractLsb' 60 4

/-- Format Z: bits 59:0 are reserved (R51). -/
def reservedZ (w : CmdWord) : Bool := w.extractLsb' 0 60 != 0#60

/-- Format I: bits 59:48 are reserved (R51). -/
def reservedI (w : CmdWord) : Bool := w.extractLsb' 48 12 != 0#12

/-- Format H: bits 59:25 are reserved (R51). -/
def reservedH (w : CmdWord) : Bool := w.extractLsb' 25 35 != 0#35

/-- Format X: bits 59:32 are reserved (R51). -/
def reservedX (w : CmdWord) : Bool := w.extractLsb' 32 28 != 0#28

/-- Format N: bits 59:4 are reserved (R51). -/
def reservedN (w : CmdWord) : Bool := w.extractLsb' 4 56 != 0#56

/-- The command if none of its reserved bits is 1, else a rejection (R56 (b)). -/
def unlessReserved (reserved : Bool) (i : Instr) : Except Reject Instr :=
  if reserved then .error .reservedBits else .ok i

/-- The operands of format N: a register number 7 to 15 names nothing (R56 (c)). -/
def decodeN (w : CmdWord) : Except Reject Instr :=
  if reservedN w then .error .reservedBits
  else if 7 ≤ (w.extractLsb' 0 4).toNat then .error .reservedRegister
  else .ok (.rdreg (w.extractLsb' 0 4))

/-- The command a word spells, or the name of the reason why it spells none (R55, R56). -/
def decode (w : CmdWord) : Except Reject Instr :=
  if opField w = 0x1#4 then
    unlessReserved (reservedI w) (.init (w.extractLsb' 40 8) (w.extractLsb' 32 8) (w.extractLsb' 0 32))
  else if opField w = 0x2#4 then unlessReserved (reservedZ w) .advance
  else if opField w = 0x3#4 then unlessReserved (reservedZ w) .nextSpeed
  else if opField w = 0x4#4 then
    unlessReserved (reservedH w) (.convert (w.extractLsb' 16 9) (w.extractLsb' 8 8) (w.extractLsb' 0 8))
  else if opField w = 0x5#4 then unlessReserved (reservedX w) (.clamp (w.extractLsb' 0 32))
  else if opField w = 0x6#4 then decodeN w
  else .error .reservedOpcode

/-- A field in its place: a `w`-bit word that holds `x` from bit `lo` upward and zeros elsewhere. -/
def place (w : Nat) {n : Nat} (x : BitVec n) (lo : Nat) : BitVec w := x.setWidth w <<< lo

/-- The word of a command: its opcode in bits 63:60, each operand in its field, zeros in the reserved bits (R51, R55). -/
def encode : Instr → CmdWord
  | .init sat val seed => place 64 0x1#4 60 ||| place 64 sat 40 ||| place 64 val 32 ||| place 64 seed 0
  | .advance => place 64 0x2#4 60
  | .nextSpeed => place 64 0x3#4 60
  | .convert hue sat val => place 64 0x4#4 60 ||| place 64 hue 16 ||| place 64 sat 8 ||| place 64 val 0
  | .clamp x => place 64 0x5#4 60 ||| place 64 x 0
  | .rdreg n => place 64 0x6#4 60 ||| place 64 n 0

/-- The 64-bit command word whose low `nbits` bits are those of `w` and whose other bits are 0, as spec/opcode_table.json
numbers bits; none where `nbits` is more than a word has. -/
def tableWord (nbits w : Nat) : Option CmdWord :=
  if nbits ≤ 64 then some (BitVec.ofNat 64 (w % 2 ^ nbits)) else none

/-- What the decoder reads from an instruction given by its table bits. -/
def decodeTableWord (nbits w : Nat) : Option Instr :=
  match tableWord nbits w with
  | none => none
  | some cmd => match decode cmd with
    | .ok i => some i
    | .error _ => none

end Sys2Proof
end

