-- ==== Sys2Proof/Config.lean ====
section
/-! DEFINITION. The configuration record `cfg` of spec/00_scope.md section 3 (rules R5 to R11, R34): parameters of the
step function, no state. Every meaning of this model takes a `Cfg`; the machine that `Sys2Proof.core` names takes
`Config.cfg`, the instance the spec's table calls the value this hardware takes, with `RNG_CONST` left open. -/

namespace Sys2Proof

/-- The configuration record (R6, R8, R9, R10). `SAFE_MAX_DUTY` is no field of it (R7); `TICK_PERIOD` is the host's
and no rule reads it (R12). -/
structure Cfg where
  /-- `PWM_PERIOD` (R6). -/
  pwmPeriod : Nat
  /-- `MIN_SPEED` (R8). -/
  minSpeed : Nat
  /-- `MAX_SPEED` (R8). -/
  maxSpeed : Nat
  /-- `CAL_R`, percent (R9). -/
  calR : Nat
  /-- `CAL_G`, percent (R9). -/
  calG : Nat
  /-- `CAL_B`, percent (R9). -/
  calB : Nat
  /-- `RNG_CONST` (R10). -/
  rngConst : BitVec 32
deriving DecidableEq, Repr

/-- The bounds the spec puts on a configuration (R6, R8, R9); `RNG_CONST` may be any word (R10). -/
abbrev Cfg.InBounds (c : Cfg) : Prop :=
  2 ≤ c.pwmPeriod ∧ c.pwmPeriod ≤ 65536 ∧
  1 ≤ c.minSpeed ∧ c.minSpeed ≤ c.maxSpeed ∧ c.maxSpeed ≤ 255 ∧
  c.calR ≤ 255 ∧ c.calG ≤ 255 ∧ c.calB ≤ 255

/-- `RNG_CONST` of this hardware: OPEN in the spec (R10, 92_eei_decisions.md D10), so a constant without a body. What
is proved of `Config.cfg` holds for every value of it. notes/assumptions/2.md -/
opaque Config.rngConst : BitVec 32

/-- The named instance `CFG0` of spec/00_scope.md section 3, at a chosen `RNG_CONST`. -/
def Config.cfg0 (rng : BitVec 32) : Cfg :=
  { pwmPeriod := 32768, minSpeed := 1, maxSpeed := 5, calR := 100, calG := 85, calB := 110, rngConst := rng }

/-- The configuration of the machine `Sys2Proof.core`: `CFG0` with `RNG_CONST` open. notes/assumptions/1.md -/
def Config.cfg : Cfg := Config.cfg0 Config.rngConst

end Sys2Proof
end

