-- ==== Sys2Proof/Machine/State.lean ====
section
/-! DEFINITION. The state of the block as plain data: the seven registers of spec/10_state.md rule R22, the commands the host has
still to present, and the record of what left the block's two output ports; the causes of a refusal, and the reasons a
step could stop. -/

namespace Sys2Proof.Machine

/-- The three causes of the block's refusal action (R126). A refused command is an ordinary step to a next state (R142),
no `Refusal` of the host's interface. -/
inductive Cause where
  /-- The word encodes no command. -/
  | illegal
  /-- An operand is outside its declared range. -/
  | domain
  /-- The command reads a register that holds no value. -/
  | notInit
deriving DecidableEq, Repr

/-- The names that the register numbers 0 to 6 stand for, in the order of their numbers (R22). -/
inductive RegName where
  | status
  | seed
  | hueStep
  | stepCounter
  | currentSpeed
  | sat
  | val
deriving DecidableEq, Repr

/-- Registers 1 to 6, which come into being together at the first successful `INIT` (R22, R30). -/
structure HeldRegs where
  /-- Register 1, `SEED` (R24). -/
  seed : BitVec 32
  /-- Register 2, `HUE_STEP` (R25). -/
  hueStep : BitVec 9
  /-- Register 3, `STEP_COUNTER` (R27). -/
  stepCounter : BitVec 8
  /-- Register 4, `CURRENT_SPEED` (R26). -/
  currentSpeed : BitVec 8
  /-- Register 5, `SAT` (R28). -/
  sat : BitVec 8
  /-- Register 6, `VAL` (R29). -/
  val : BitVec 8
deriving DecidableEq, Repr

/-- What the outside world does to the block, in the order it does it: a command word presented on the command port
(R42), or the reset input asserted and released between two commands (R145). -/
inductive Input where
  | command (w : CmdWord)
  | reset
deriving DecidableEq, Repr

/-- One transfer out of the block: a channel write (R43, R59) or a response (R44, R57). -/
inductive OutEvent where
  | chanWrite (w : ChanWord)
  | response (w : RspWord)
deriving DecidableEq, Repr

/-- The machine. `status` and `held` are the registers of the block. `inputs` and `trace` are the model's own: they stand
for the host's command sequence and for the output trace, which are no state of the block and which no rule of it reads
(R34). -/
structure State where
  /-- Register 0, `STATUS` (R23): bit 0 `INITED`, bit 1 `ERR_ILLEGAL`, bit 2 `ERR_DOMAIN`, bit 3 `ERR_NOT_INIT`. -/
  status : BitVec 32
  /-- Registers 1 to 6. `none` is the spec's own state "holds no value", which lasts from reset to the first successful
  `INIT` and in which the model must give them no value (R30, R35, R146). notes/assumptions/3.md -/
  held : Option HeldRegs
  /-- What the host will still present, first to come first. notes/assumptions/4.md -/
  inputs : List Input
  /-- What has left the block, oldest first. notes/assumptions/5.md -/
  trace : List OutEvent
deriving DecidableEq, Repr

/-- The reasons the machine stops with a fault: none. The spec gives the block no trap, no stuck state and no word, operand
or state for which a command has no defined effect (R56, R125, R140; 93_implementation_defined.md, part 1). -/
inductive Fault where
deriving DecidableEq, Repr

/-- The reasons an instruction has no meaning. -/
inductive Refusal where
  /-- Raised by an arm of `exec` for an instruction without a meaning: by none, since every instruction has one. Safe. -/
  | notModelled (mnemonic : String)
deriving DecidableEq, Repr

/-- The state after reset: `STATUS` is 0 and registers 1 to 6 hold no value (R35, R146); nothing has been presented and
nothing has been emitted. -/
def State.reset : State :=
  { status := 0#32, held := none, inputs := [], trace := [] }

end Sys2Proof.Machine
end

