-- ==== Sys2Proof/Machine/Flags.lean ====
section
/-! DEFINITION. The four flags of the block, the defined bits of `STATUS` (spec/10_state.md rules R23, R32), and what the word reads
as. The block has no arithmetic flags (R32). -/

namespace Sys2Proof.Machine

/-- `STATUS[0]`, `INITED` (R23). -/
def initedBit : BitVec 32 := 0x1#32

/-- The sticky bit of a cause: `STATUS[1]`, `STATUS[2]` or `STATUS[3]` (R126). -/
def errBit : Cause → BitVec 32
  | .illegal => 0x2#32
  | .domain => 0x4#32
  | .notInit => 0x8#32

/-- The defined bits of `STATUS`; bits 31:4 always read 0 (R23). -/
def definedBits : BitVec 32 := 0xF#32

/-- `STATUS.INITED == 1`. -/
def statusInited (st : BitVec 32) : Bool := st.getLsbD 0

/-- `STATUS.INITED <- 1`; every other bit is kept (R107). -/
def setInited (st : BitVec 32) : BitVec 32 := st ||| initedBit

/-- `STATUS[Cause] <- 1`; every other bit is kept (R128). -/
def setErr (c : Cause) (st : BitVec 32) : BitVec 32 := st ||| errBit c

/-- What `STATUS` reads as: bits 31:4 are hard-wired to 0 (R23). -/
def statusRead (st : BitVec 32) : BitVec 32 := st &&& definedBits

end Sys2Proof.Machine
end

