-- ==== Sys2Proof/Machine/Operands.lean ====
section
/-! DEFINITION. The operand forms of the six commands after decoding: a hue with its domain check, an eight-bit intensity and a
32-bit value read as unsigned integers, a register number (spec/30_encoding.md rule R60; spec/41_color_converter.md rule R82;
spec/10_state.md rule R22). -/

namespace Sys2Proof.Machine

/-- The value of an operand field: the unsigned integer its bits spell, zero-extended, never scaled (R60). -/
def operandValue {n : Nat} (x : BitVec n) : Nat := x.toNat

/-- A number as a hue of the domain 0 to 359; none from 360 on (R80, R82). -/
def hueInDomain (h : Nat) : Option (Fin 360) :=
  if lt : h < 360 then some ⟨h, lt⟩ else none

/-- The register a four-bit number names; none for 7 to 15 (R22, R41). -/
def regOfNumber (n : BitVec 4) : Option RegName :=
  match n.toNat with
  | 0 => some .status
  | 1 => some .seed
  | 2 => some .hueStep
  | 3 => some .stepCounter
  | 4 => some .currentSpeed
  | 5 => some .sat
  | 6 => some .val
  | _ => none

end Sys2Proof.Machine
end

