-- ==== Sys2Proof/Machine/Ops.lean ====
section
/-! DEFINITION. The named operations over registers and ports that the meanings share: reading registers, responding, emitting a
channel write, THE REFUSAL ACTION (which stands where a processor takes an exception, spec/60_exceptions.md rules R125 and
R128), and the reset input. There is no return from a refusal (R133) and no memory (spec/20_memory.md rule R40). -/

namespace Sys2Proof.Machine

/-- Replace `STATUS`. -/
def State.setStatus (s : State) (st : BitVec 32) : State := { s with status := st }

/-- Replace registers 1 to 6. -/
def State.setHeld (s : State) (r : Option HeldRegs) : State := { s with held := r }

/-- Replace what the host will still present. -/
def State.setInputs (s : State) (l : List Input) : State := { s with inputs := l }

/-- One more transfer has left the block. -/
def State.emitEvent (s : State) (e : OutEvent) : State := { s with trace := s.trace ++ [e] }

/-- `STATUS.INITED == 1` in this state. -/
def inited (s : State) : Bool := statusInited s.status

/-- Registers 1 to 6 as a command sees them: their values if they hold values, which they do not while
`STATUS.INITED == 0` (R30). Every read of one of them goes through here. -/
def heldRegs (s : State) : Option HeldRegs :=
  if inited s then s.held else none

/-- The value of a register, zero-extended to 32 bits; none if the register holds no value (R30, R41, R121). -/
def readReg (reg : RegName) (s : State) : Option (BitVec 32) :=
  match reg with
  | .status => some (statusRead s.status)
  | .seed => (heldRegs s).map fun r => r.seed
  | .hueStep => (heldRegs s).map fun r => r.hueStep.zeroExtend 32
  | .stepCounter => (heldRegs s).map fun r => r.stepCounter.zeroExtend 32
  | .currentSpeed => (heldRegs s).map fun r => r.currentSpeed.zeroExtend 32
  | .sat => (heldRegs s).map fun r => r.sat.zeroExtend 32
  | .val => (heldRegs s).map fun r => r.val.zeroExtend 32

/-- The result code `OK` (R57). -/
def okCode : BitVec 4 := 0#4

/-- The result code of a cause (R57, R126). -/
def causeCode : Cause → BitVec 4
  | .illegal => 1#4
  | .domain => 2#4
  | .notInit => 3#4

/-- A response word: the code in bits 63:60, zeros in 59:48, the payload in 47:0 (R57). -/
def rspWord (code : BitVec 4) (payload : Payload) : RspWord := place 64 code 60 ||| place 64 payload 0

/-- A channel-write word: the channel in bits 17:16, the duty in 15:0 (R59). -/
def chanWord (ch : BitVec 2) (duty : BitVec 16) : ChanWord := place 18 ch 16 ||| place 18 duty 0

/-- `respond(code, payload)`: the one response of a command (R44). -/
def respond (code : BitVec 4) (payload : Payload) (s : State) : State :=
  s.emitEvent (.response (rspWord code payload))

/-- `respond(OK, payload)`. -/
def respondOk (payload : Payload) (s : State) : State := respond okCode payload s

/-- `emit ChanWrite(ch, duty)` (R43); the duty fits its 16 bits, being at most `SAFE_MAX_DUTY` (R59, R112). -/
def emitChan (ch : BitVec 2) (duty : Nat) (s : State) : State :=
  s.emitEvent (.chanWrite (chanWord ch (BitVec.ofNat 16 duty)))

/-- THE REFUSAL ACTION `refuse Cause` (R128): set the sticky bit of the cause, respond with its code and a zero payload,
change nothing else. -/
def refuse (c : Cause) (s : State) : State :=
  respond (causeCode c) 0#48 (s.setStatus (setErr c s.status))

/-- The reset input is asserted between two commands: `STATUS` becomes 0 and registers 1 to 6 hold no value; nothing is
emitted (R145, R146, R147). -/
def resetInput (s : State) : State := (s.setStatus 0#32).setHeld none

/-- The host's next action and the state with it taken; none while the host presents nothing and the block is idle (R42,
R139). -/
def takeInput (s : State) : Option (Input × State) :=
  match s.inputs with
  | [] => none
  | a :: rest => some (a, s.setInputs rest)

/-- The host presents this word as its next command, before anything else it was going to present. -/
def presentCommand (w : CmdWord) (s : State) : State := s.setInputs (.command w :: s.inputs)

end Sys2Proof.Machine
end

