-- ==== Sys2Proof/Machine/Cadence.lean ====
section
/-! DEFINITION. The cadence generator and the command `NEXT_SPEED` (spec/40_cadence_generator.md). -/

namespace Sys2Proof.Machine

/-- The updated generator word, `seed1` of rule R72: a 32-bit left shift that loses bit 31, a logical right shift, and
the constant, combined by exclusive or (R71). -/
def nextSeed (cfg : Cfg) (seed : BitVec 32) : BitVec 32 :=
  (seed <<< 1) ^^^ (seed >>> 30) ^^^ cfg.rngConst

/-- `span = MAX_SPEED - MIN_SPEED + 1` (R72). -/
def speedSpan (cfg : Cfg) : Nat := cfg.maxSpeed - cfg.minSpeed + 1

/-- The speed drawn from an updated word, read as unsigned: `MIN_SPEED + (seed1 mod span)` (R72). -/
def speedOf (cfg : Cfg) (seed1 : BitVec 32) : BitVec 8 :=
  BitVec.ofNat 8 (cfg.minSpeed + seed1.toNat % speedSpan cfg)

/-- `next_state_speed(seed)` (R72): the updated word and the speed drawn from it. -/
def nextStateSpeed (cfg : Cfg) (seed : BitVec 32) : BitVec 32 × BitVec 8 :=
  (nextSeed cfg seed, speedOf cfg (nextSeed cfg seed))

/-- `NEXT_SPEED` at a configuration (R73): `SEED` advances, the speed is the response's `rsp[7:0]`, `CURRENT_SPEED` is
not written; `NOT_INIT` while `SEED` holds no value. -/
def nextSpeedIn (cfg : Cfg) (s : State) : State :=
  match heldRegs s with
  | none => refuse .notInit s
  | some r =>
    respondOk ((nextStateSpeed cfg r.seed).2.zeroExtend 48)
      (s.setHeld (some { r with seed := (nextStateSpeed cfg r.seed).1 }))

/-- `NEXT_SPEED` (R73). -/
def execNextSpeed (s : State) : Host.Outcome State Fault Refusal :=
  .next (nextSpeedIn Config.cfg s)

end Sys2Proof.Machine
end

