-- ==== Sys2Proof/Machine/Clamper.lean ====
section
/-! DEFINITION. The PWM duty-cycle clamper and the command `CLAMP` (spec/42_clamper.md). -/

namespace Sys2Proof.Machine

/-- `SAFE_MAX_DUTY = PWM_PERIOD - 1` (R7). -/
def safeMaxDuty (cfg : Cfg) : Nat := cfg.pwmPeriod - 1

/-- `clamp(x)` (R101). Saturating is no error and is recorded nowhere (R100). -/
def clampDuty (cfg : Cfg) (x : Nat) : Nat :=
  if x > safeMaxDuty cfg then safeMaxDuty cfg else x

/-- `CLAMP x` at a configuration (R102): the result in `rsp[15:0]`; no register is read or written. -/
def clampIn (cfg : Cfg) (x : BitVec 32) (s : State) : State :=
  respondOk (BitVec.ofNat 48 (clampDuty cfg (operandValue x))) s

/-- `CLAMP x` (R102). -/
def execClamp (x : BitVec 32) (s : State) : Host.Outcome State Fault Refusal :=
  .next (clampIn Config.cfg x s)

end Sys2Proof.Machine
end

