-- ==== Sys2Proof/Machine/Converter.lean ====
section
/-! DEFINITION. The color-space converter `hsv2duty` and the command `CONVERT` (spec/41_color_converter.md). All arithmetic is on
exact non-negative integers with truncating division, each product formed before its division (R94). -/

namespace Sys2Proof.Machine

/-- `region = h / 60`, which is 0 to 5 for a hue of the domain (R84). -/
def regionOf (h : Fin 360) : Fin 6 := ⟨h.val / 60, by omega⟩

/-- `rem = ((h mod 60) * 255) / 60` (R84). -/
def remainderOf (h : Nat) : Nat := (h % 60) * 255 / 60

/-- `p = (v * (255 - s)) / 255` (R85). -/
def pOf (s v : Nat) : Nat := v * (255 - s) / 255

/-- `q = (v * (255 - ((s * rem) / 255))) / 255` (R85). -/
def qOf (s v rem : Nat) : Nat := v * (255 - s * rem / 255) / 255

/-- `t = (v * (255 - ((s * (255 - rem)) / 255))) / 255` (R85). -/
def tOf (s v rem : Nat) : Nat := v * (255 - s * (255 - rem) / 255) / 255

/-- The six-case table of rule R86. -/
def selectSector (region : Fin 6) (v p q t : Nat) : Triple :=
  match region with
  | 0 => ⟨v, t, p⟩
  | 1 => ⟨q, v, p⟩
  | 2 => ⟨p, v, t⟩
  | 3 => ⟨p, q, v⟩
  | 4 => ⟨t, p, v⟩
  | 5 => ⟨v, p, q⟩

/-- `(r8, g8, b8)`: steps 2 to 4, in the 0 to 255 domain (R84, R85, R86). -/
def sectorTriple (h : Fin 360) (s v : Nat) : Triple :=
  selectSector (regionOf h) v (pOf s v) (qOf s v (remainderOf h.val)) (tOf s v (remainderOf h.val))

/-- `scale(c8) = (c8 * PWM_PERIOD) / 255` (R83, R87). -/
def scaleDuty (cfg : Cfg) (c8 : Nat) : Nat := c8 * cfg.pwmPeriod / 255

/-- `cal(x, k) = (x * k) / 100` (R87). -/
def calibrate (x k : Nat) : Nat := x * k / 100

/-- One chromatic channel: scale, calibrate, clamp, in that order (R87). -/
def channelDuty (cfg : Cfg) (cal c8 : Nat) : Nat := clampDuty cfg (calibrate (scaleDuty cfg c8) cal)

/-- `hsv2duty(h, s, v)` (R88): the achromatic case bypasses hue and calibration (R83). -/
def hsv2duty (cfg : Cfg) (h : Fin 360) (s v : BitVec 8) : Triple :=
  if s.toNat = 0 then
    let a := clampDuty cfg (scaleDuty cfg v.toNat)
    ⟨a, a, a⟩
  else
    let c := sectorTriple h s.toNat v.toNat
    ⟨channelDuty cfg cfg.calR c.r, channelDuty cfg cfg.calG c.g, channelDuty cfg cfg.calB c.b⟩

/-- The payload of a successful `CONVERT`: `r` in `rsp[47:32]`, `g` in `rsp[31:16]`, `b` in `rsp[15:0]` (R58, R89). -/
def triplePayload (d : Triple) : Payload :=
  place 48 (BitVec.ofNat 16 d.r) 32 ||| place 48 (BitVec.ofNat 16 d.g) 16 ||| place 48 (BitVec.ofNat 16 d.b) 0

/-- `CONVERT hue, sat, val` at a configuration (R89): `DOMAIN` for a hue of 360 or more whatever the saturation (R82),
else the triple; no register is read or written on success and nothing is emitted to the channel sink. -/
def convertIn (cfg : Cfg) (hue : BitVec 9) (sat val : BitVec 8) (s : State) : State :=
  match hueInDomain (operandValue hue) with
  | none => refuse .domain s
  | some h => respondOk (triplePayload (hsv2duty cfg h sat val)) s

/-- `CONVERT hue, sat, val` (R89). -/
def execConvert (hue : BitVec 9) (sat val : BitVec 8) (s : State) : Host.Outcome State Fault Refusal :=
  .next (convertIn Config.cfg hue sat val s)

end Sys2Proof.Machine
end

