-- ==== Sys2Proof/Machine/Cycle.lean ====
section
/-! DEFINITION. The color-cycle state machine: the commands `INIT` and `ADVANCE` (spec/43_cycle_state_machine.md). -/

namespace Sys2Proof.Machine

/-- Registers 1 to 6 after a successful `INIT` (R107): the seed is loaded before the draw, so `SEED` and
`CURRENT_SPEED` are those of one draw from the operand. -/
def initRegs (cfg : Cfg) (sat val : BitVec 8) (seed : BitVec 32) : HeldRegs :=
  { seed := (nextStateSpeed cfg seed).1
    hueStep := 0#9
    stepCounter := 0#8
    currentSpeed := (nextStateSpeed cfg seed).2
    sat := sat
    val := val }

/-- `INIT sat, val, seed` at a configuration (R107): legal in both states of the machine (R108 (a)); the sticky bits are
kept (R134); nothing is emitted to the channel sink. -/
def initIn (cfg : Cfg) (sat val : BitVec 8) (seed : BitVec 32) (s : State) : State :=
  respondOk 0#48
    ((s.setHeld (some (initRegs cfg sat val seed))).setStatus (setInited s.status))

/-- `INIT sat, val, seed` (R107). -/
def execInit (sat val : BitVec 8) (seed : BitVec 32) (s : State) : Host.Outcome State Fault Refusal :=
  .next (initIn Config.cfg sat val seed s)

/-- Step 2 of `ADVANCE` is taken: the incremented counter has reached the speed in force (R110, R111 (a), (b)). -/
def counterFull (r : HeldRegs) : Bool := decide (r.stepCounter.toNat + 1 ≥ r.currentSpeed.toNat)

/-- The counter after steps 1 and 2 (`sc` of rule R110). -/
def tickCounter (r : HeldRegs) : Nat := if counterFull r then 0 else r.stepCounter.toNat + 1

/-- The hue after step 2 and before step 3. -/
def tickHue (r : HeldRegs) : Nat := if counterFull r then r.hueStep.toNat + 1 else r.hueStep.toNat

/-- Registers 1 to 6 after steps 1 to 3 of `ADVANCE`, with the hue the colour is computed from (R110). A hue below 360
is kept; a hue of 360 wraps to 0 and draws a new speed from `SEED`, which first governs the next `ADVANCE`
(R111 (b), (f)). -/
def tickRegs (cfg : Cfg) (r : HeldRegs) : HeldRegs × Fin 360 :=
  match hueInDomain (tickHue r) with
  | some h =>
    ({ r with stepCounter := BitVec.ofNat 8 (tickCounter r), hueStep := BitVec.ofNat 9 h.val }, h)
  | none =>
    ({ r with
        stepCounter := BitVec.ofNat 8 (tickCounter r)
        hueStep := 0#9
        seed := (nextStateSpeed cfg r.seed).1
        currentSpeed := (nextStateSpeed cfg r.seed).2 }, 0)

/-- Step 4 of `ADVANCE`: the three channel writes, red, green, blue, each clamped once more (R112). -/
def emitTriple (cfg : Cfg) (d : Triple) (s : State) : State :=
  emitChan 2#2 (clampDuty cfg d.b) (emitChan 1#2 (clampDuty cfg d.g) (emitChan 0#2 (clampDuty cfg d.r) s))

/-- `ADVANCE` at a configuration (R110): one tick. The response follows the third channel write (R44); `NOT_INIT`, and
no channel write, while the registers hold no value. -/
def advanceIn (cfg : Cfg) (s : State) : State :=
  match heldRegs s with
  | none => refuse .notInit s
  | some r =>
    respondOk 0#48
      (emitTriple cfg (hsv2duty cfg (tickRegs cfg r).2 r.sat r.val) (s.setHeld (some (tickRegs cfg r).1)))

/-- `ADVANCE` (R110). -/
def execAdvance (s : State) : Host.Outcome State Fault Refusal :=
  .next (advanceIn Config.cfg s)

end Sys2Proof.Machine
end

