-- ==== Sys2Proof/Machine/System.lean ====
section
/-! DEFINITION. The system command `RDREG` (spec/44_system.md). -/

namespace Sys2Proof.Machine

/-- `RDREG n` (R121): a number that names no register is `ILLEGAL` in every state, checked before `NOT_INIT` (R122 (c),
R129); a register that holds no value is `NOT_INIT`; else its value is `rsp[31:0]`. Nothing else changes on success
(R123). -/
def rdregIn (n : BitVec 4) (s : State) : State :=
  match regOfNumber n with
  | none => refuse .illegal s
  | some reg =>
    match readReg reg s with
    | none => refuse .notInit s
    | some v => respondOk (v.zeroExtend 48) s

/-- `RDREG n` (R121). -/
def execRdreg (n : BitVec 4) (s : State) : Host.Outcome State Fault Refusal :=
  .next (rdregIn n s)

end Sys2Proof.Machine
end

