-- ==== Sys2Proof/Machine/Dispatch.lean ====
section
/-! DEFINITION. One arm per constructor of `Instr`, each one call of that instruction's meaning. -/

namespace Sys2Proof.Machine

def exec (i : Instr) (s : State) : Host.Outcome State Fault Refusal :=
  match i with
  | .init sat val seed => Sys2Proof.Machine.execInit sat val seed s
  | .advance => Sys2Proof.Machine.execAdvance s
  | .nextSpeed => Sys2Proof.Machine.execNextSpeed s
  | .convert hue sat val => Sys2Proof.Machine.execConvert hue sat val s
  | .clamp x => Sys2Proof.Machine.execClamp x s
  | .rdreg n => Sys2Proof.Machine.execRdreg n s

end Sys2Proof.Machine
end

