-- ==== Sys2Proof/Machine/Accept.lean ====
section
/-! DEFINITION. What the block does with a word taken from the command port, and with an assertion of its reset input. -/

namespace Sys2Proof.Machine

/-- The block accepts a command word (R42, R45): a legal word is executed, any other is refused with `ILLEGAL` (R56). -/
def acceptCommand (w : CmdWord) (s : State) : Host.Outcome State Fault Refusal :=
  match decode w with
  | .ok i => exec i s
  | .error _ => .next (refuse .illegal s)

/-- The block's reaction to one action of the host (R42, R145). -/
def acceptInput (a : Input) (s : State) : Host.Outcome State Fault Refusal :=
  match a with
  | .command w => acceptCommand w s
  | .reset => .next (resetInput s)

/-- The state in which the instruction with these table bits is the next command; unchanged where they are more bits than
a command word has. -/
def placeTableWord (nbits w : Nat) (s : State) : State :=
  match tableWord nbits w with
  | none => s
  | some cmd => presentCommand cmd s

end Sys2Proof.Machine
end

