-- ==== Sys2Proof/Machine/Step.lean ====
section
/-! DEFINITION. One step of the machine: the host's next action is taken and run to its response (spec/20_memory.md rule R45). The
block fetches nothing (R21); its commands come from the host, one at a time (R42). -/

namespace Sys2Proof.Machine

/-- One step. With nothing presented the block stays as it is, idle and ready (R139); else the first action of the host is
taken, and a command runs whole, its response included. -/
def step (s : State) : Host.Outcome State Fault Refusal :=
  match takeInput s with
  | none => .next s
  | some (a, s') => acceptInput a s'

/-- The state in which the host presents the instruction with these table bits as its very next command. -/
def State.withFetchWord (s : State) (nbits w : Nat) : State := placeTableWord nbits w s

end Sys2Proof.Machine
end

