-- ==== Sys2Proof/Machine/Param.lean ====
section
/-! DEFINITION. The same machine with the configuration as an argument. The configuration is a parameter of the step function
(spec/00_scope.md rule R5), and a claim either names a value or holds for every value (R10): statements about every legal
configuration are made over `stepIn cfg` and `execIn cfg`, which call the very meanings that `exec` calls. -/

namespace Sys2Proof.Machine

/-- The state after one command at a configuration. -/
def execIn (cfg : Cfg) (i : Instr) (s : State) : State :=
  match i with
  | .init sat val seed => initIn cfg sat val seed s
  | .advance => advanceIn cfg s
  | .nextSpeed => nextSpeedIn cfg s
  | .convert hue sat val => convertIn cfg hue sat val s
  | .clamp x => clampIn cfg x s
  | .rdreg n => rdregIn n s

/-- The state after one action of the host at a configuration. -/
def acceptIn (cfg : Cfg) (a : Input) (s : State) : State :=
  match a with
  | .reset => resetInput s
  | .command w =>
    match decode w with
    | .ok i => execIn cfg i s
    | .error _ => refuse .illegal s

/-- The state after one step at a configuration. -/
def stepIn (cfg : Cfg) (s : State) : State :=
  match takeInput s with
  | none => s
  | some (a, s') => acceptIn cfg a s'

/-- The state after `k` steps at a configuration. -/
def runIn (cfg : Cfg) : Nat → State → State
  | 0, s => s
  | k + 1, s => runIn cfg k (stepIn cfg s)

end Sys2Proof.Machine
end

