-- ==== Sys2Proof/Safety.lean ====
section
/-! DEFINITION. The terms claims are made in: the invariants of the state (spec/10_state.md rules R23, R30, R31), what may leave the
block (spec/30_encoding.md rules R57, R59), the projections of the output trace, and what the channel sink holds after it
(spec/20_memory.md rule R47). -/

namespace Sys2Proof.Machine

/-- The ranges of the held registers (R31); the ranges of `SAT`, `VAL` and `SEED` are in their widths. -/
abbrev RegsOk (cfg : Cfg) (r : HeldRegs) : Prop :=
  r.hueStep.toNat ≤ 359 ∧
  cfg.minSpeed ≤ r.currentSpeed.toNat ∧ r.currentSpeed.toNat ≤ cfg.maxSpeed ∧
  r.stepCounter.toNat < r.currentSpeed.toNat

/-- The invariant of the state between commands: bits 31:4 of `STATUS` are 0 (R23); registers 1 to 6 hold values exactly
when `STATUS.INITED == 1` (R30); held values are in range (R31). -/
abbrev StateOk (cfg : Cfg) (s : State) : Prop :=
  statusRead s.status = s.status ∧
  inited s = s.held.isSome ∧
  (match s.held with
    | none => True
    | some r => RegsOk cfg r)

/-- `chw[17:16]` (R59). -/
def chanOf (w : ChanWord) : BitVec 2 := w.extractLsb' 16 2

/-- `chw[15:0]` (R59). -/
def dutyOf (w : ChanWord) : BitVec 16 := w.extractLsb' 0 16

/-- `rsp[63:60]` (R57). -/
def codeOf (w : RspWord) : BitVec 4 := w.extractLsb' 60 4

/-- `rsp[47:0]` (R57). -/
def payloadOf (w : RspWord) : Payload := w.extractLsb' 0 48

/-- What the ports may carry: a channel 0 to 2 with a duty of at most `SAFE_MAX_DUTY` (R43, R59); a response with code 0
to 3, zeros in bits 59:48, and a zero payload unless the code is `OK` (R57). -/
abbrev EventOk (cfg : Cfg) (e : OutEvent) : Prop :=
  match e with
  | .chanWrite w => (chanOf w).toNat ≤ 2 ∧ (dutyOf w).toNat ≤ safeMaxDuty cfg
  | .response w =>
    (codeOf w).toNat ≤ 3 ∧ w.extractLsb' 48 12 = 0#12 ∧ (codeOf w ≠ okCode → payloadOf w = 0#48)

/-- Everything that has left the block so far is what the ports may carry. -/
abbrev TraceOk (cfg : Cfg) (s : State) : Prop := ∀ e ∈ s.trace, EventOk cfg e

/-- The responses of a trace, in order: result (a) of a run (R158). -/
def responsesOf (l : List OutEvent) : List RspWord :=
  l.filterMap fun e => match e with
    | .response w => some w
    | .chanWrite _ => none

/-- The channel writes of a trace, in order: result (b) of a run (R158). -/
def chanWritesOf (l : List OutEvent) : List ChanWord :=
  l.filterMap fun e => match e with
    | .chanWrite w => some w
    | .response _ => none

/-- The duty the sink holds for a channel after a trace, if the block has written that channel: a later write replaces an
earlier one (R47). The sink itself is outside the block (R33). -/
def sinkDuty (ch : BitVec 2) (l : List OutEvent) : Option (BitVec 16) :=
  l.foldl (fun held e => match e with
    | .chanWrite w => if chanOf w = ch then some (dutyOf w) else held
    | .response _ => held) none

/-- The three channel writes of one `ADVANCE` that shows this triple, in the order they leave the block (R112). -/
def tripleWrites (d : Triple) : List OutEvent :=
  [.chanWrite (chanWord 0#2 (BitVec.ofNat 16 d.r)),
   .chanWrite (chanWord 1#2 (BitVec.ofNat 16 d.g)),
   .chanWrite (chanWord 2#2 (BitVec.ofNat 16 d.b))]

/-- The words that encode no command, as rule R56 and the column `ILLEGAL` of rule R127 list them. -/
abbrev IllegalWord (w : CmdWord) : Prop :=
  w.extractLsb' 60 4 = 0x0#4 ∨ 7 ≤ (w.extractLsb' 60 4).toNat ∨
  (w.extractLsb' 60 4 = 0x1#4 ∧ w.extractLsb' 48 12 ≠ 0#12) ∨
  (w.extractLsb' 60 4 = 0x2#4 ∧ w.extractLsb' 0 60 ≠ 0#60) ∨
  (w.extractLsb' 60 4 = 0x3#4 ∧ w.extractLsb' 0 60 ≠ 0#60) ∨
  (w.extractLsb' 60 4 = 0x4#4 ∧ w.extractLsb' 25 35 ≠ 0#35) ∨
  (w.extractLsb' 60 4 = 0x5#4 ∧ w.extractLsb' 32 28 ≠ 0#28) ∨
  (w.extractLsb' 60 4 = 0x6#4 ∧ (w.extractLsb' 4 56 ≠ 0#56 ∨ 7 ≤ (w.extractLsb' 0 4).toNat))

/-- The words of the column `NOT_INIT` of rule R127: `ADVANCE`, `NEXT_SPEED`, and `RDREG` of a number from 1 on. -/
abbrev NeedsInit (w : CmdWord) : Prop :=
  w.extractLsb' 60 4 = 0x2#4 ∨ w.extractLsb' 60 4 = 0x3#4 ∨
  (w.extractLsb' 60 4 = 0x6#4 ∧ 1 ≤ (w.extractLsb' 0 4).toNat)

/-- The words of the column `DOMAIN` of rule R127: `CONVERT` with a hue field of 360 or more. -/
abbrev HueOutside (w : CmdWord) : Prop :=
  w.extractLsb' 60 4 = 0x4#4 ∧ 360 ≤ (w.extractLsb' 16 9).toNat

/-- The three sticky error bits of a `STATUS` word, `STATUS[3:1]` (R134, R142). -/
def stickyBits (st : BitVec 32) : BitVec 3 := st.extractLsb' 1 3

/-- `STATUS[3:1]` is 0 exactly when every response that has left the block has the code `OK`: one read of `STATUS` tells
whether a refusal has happened (R134). -/
abbrev StickyOk (s : State) : Prop :=
  stickyBits s.status = 0#3 ↔ ∀ w ∈ responsesOf s.trace, codeOf w = okCode

/-- The host's action is a command and not a reset. -/
def Input.isCommand : Input → Bool
  | .command _ => true
  | .reset => false

end Sys2Proof.Machine
end

