-- ==== Sys2Proof/Certificates/Slice0/Obligations.lean ====
section
/-! DEFINITION. The statements about this model, one `Obligations.<Name>` each; OBLIGATIONS.json lists them. `exec` and `step` are
the machine at `Config.cfg`; `execIn cfg`, `stepIn cfg` and `runIn cfg` are the same machine at a configuration, so that a
statement over them holds for every configuration (spec/00_scope.md rule R10). The block has no memory (R40), so no frame
speaks of one. The fields `inputs` and `trace` of a state are the model's own form of the host's command sequence and of the
output trace of rule R34 (log entries 4 and 5); the configuration of `Config.cfg` is log entries 1 and 2. -/

open Sys2Proof Sys2Proof.Machine

/-- For every well-formed command, with every operand at every value its field admits, decode of encode is that command.
[30_encoding.md R51, 30_encoding.md R55, 30_encoding.md R60] -/
def Obligations.EncodeThenDecodeReturnsTheCommand : Prop :=
  ∀ i : Instr, i.wf = true → decode (encode i) = .ok i

/-- If a word decodes to a command, encoding that command gives the same word, so no bit of a legal word is dropped and
no two words spell one command; and the command is well-formed. [30_encoding.md R51, 30_encoding.md R55,
30_encoding.md R56] -/
def Obligations.DecodeThenEncodeReturnsTheWord : Prop :=
  ∀ (w : CmdWord) (i : Instr), decode w = .ok i → encode i = w ∧ i.wf = true

/-- For each of the six rows of the opcode map, some operands make the word decode to the row's command exactly when the
word and the row's mask give the row's match; for RDREG the register number must also be below 7. [30_encoding.md
R55, 30_encoding.md R56] -/
def Obligations.DecoderFollowsTheMatchAndMaskColumns : Prop :=
  ∀ w : CmdWord,
    ((∃ sat val seed, decode w = .ok (.init sat val seed)) ↔
      w &&& 0xFFFF000000000000#64 = 0x1000000000000000#64) ∧
    (decode w = .ok .advance ↔ w &&& 0xFFFFFFFFFFFFFFFF#64 = 0x2000000000000000#64) ∧
    (decode w = .ok .nextSpeed ↔ w &&& 0xFFFFFFFFFFFFFFFF#64 = 0x3000000000000000#64) ∧
    ((∃ hue sat val, decode w = .ok (.convert hue sat val)) ↔
      w &&& 0xFFFFFFFFFE000000#64 = 0x4000000000000000#64) ∧
    ((∃ x, decode w = .ok (.clamp x)) ↔ w &&& 0xFFFFFFFF00000000#64 = 0x5000000000000000#64) ∧
    ((∃ n, decode w = .ok (.rdreg n)) ↔
      w &&& 0xFFFFFFFFFFFFFFF0#64 = 0x6000000000000000#64 ∧ (w.extractLsb' 0 4).toNat < 7)

/-- A word decodes to no command exactly when its opcode is 0x0 or 0x7 to 0xF, a reserved bit of its format is 1, or it
is RDREG of 7 to 15; a step that takes such a word sets STATUS.ERR_ILLEGAL, responds with code 1 and a zero payload,
and changes nothing else; the all-zero and the all-ones word are illegal; every word a step takes leaves a response,
so none is a no-op. [R56] -/
def Obligations.IllegalWordsAreRefusedAndOnlyThey : Prop :=
  (∀ w : CmdWord, (∃ e, decode w = .error e) ↔ IllegalWord w) ∧
  (∀ (s : State) (w : CmdWord) (rest : List Input), s.inputs = .command w :: rest → IllegalWord w →
    step s = .next { s with
      status := s.status ||| 0x2#32
      inputs := rest
      trace := s.trace ++ [.response 0x1000000000000000#64] }) ∧
  IllegalWord 0#64 ∧ IllegalWord 0xFFFFFFFFFFFFFFFF#64 ∧
  (∀ (s : State) (w : CmdWord) (rest : List Input), s.inputs = .command w :: rest →
    ∃ t evs rsp, step s = .next t ∧ t.trace = s.trace ++ evs ++ [.response rsp])

/-- Words of the spec's table of worked encodings decode to the commands it lists. [30_encoding.md section 6 Worked
encodings, R55] -/
def Obligations.SampleWordsDecode : Prop :=
  decode 0x1000FFDC00000001#64 = .ok (.init 255#8 220#8 1#32) ∧
  decode 0x2000000000000000#64 = .ok .advance ∧
  decode 0x3000000000000000#64 = .ok .nextSpeed ∧
  decode 0x400000000168FFDC#64 = .ok (.convert 360#9 255#8 220#8) ∧
  decode 0x5000000000008000#64 = .ok (.clamp 0x8000#32) ∧
  decode 0x6000000000000002#64 = .ok (.rdreg 2#4) ∧
  decode 0x6000000000000007#64 = .error .reservedRegister ∧
  decode 0x0000000000000000#64 = .error .reservedOpcode ∧
  decode 0x2000000000000001#64 = .error .reservedBits ∧
  decode 0x4000000002000000#64 = .error .reservedBits

/-- The configuration of the machine meets every bound of spec section 3 whatever RNG_CONST is, and PWM_PERIOD - 1 is
32767. The choice of CFG0 for the machine is the model's (log entry 1). [00_scope.md section 3 Implementation
parameters, 00_scope.md R7] -/
def Obligations.ThisHardwareHasALegalConfiguration : Prop :=
  Config.cfg.InBounds ∧ safeMaxDuty Config.cfg = 0x7FFF ∧ ∀ rng : BitVec 32, (Config.cfg0 rng).InBounds

/-- For every legal configuration and every non-negative integer x, clamp(x) is x if x is at most PWM_PERIOD - 1, else
PWM_PERIOD - 1, that is the minimum of the two; 0 is kept; the result fits 16 bits; SAFE_MAX_DUTY is kept and
PWM_PERIOD saturates. [R101] -/
def Obligations.ClampIsTheMinimumWithSafeMaxDuty : Prop :=
  ∀ cfg : Cfg, cfg.InBounds →
    (∀ x : Nat, x ≤ cfg.pwmPeriod - 1 → clampDuty cfg x = x) ∧
    (∀ x : Nat, cfg.pwmPeriod - 1 < x → clampDuty cfg x = cfg.pwmPeriod - 1) ∧
    (∀ x : Nat, clampDuty cfg x = min x (cfg.pwmPeriod - 1) ∧ clampDuty cfg x < 2 ^ 16) ∧
    clampDuty cfg 0 = 0 ∧
    clampDuty cfg (safeMaxDuty cfg) = safeMaxDuty cfg ∧
    clampDuty cfg cfg.pwmPeriod = safeMaxDuty cfg

/-- The four properties of rule R103 for every legal configuration, and its corner cases for CFG0 and for the smallest
and the largest period. [R103] -/
def Obligations.ClampIsIdempotentMonotoneAndBounded : Prop :=
  (∀ cfg : Cfg, cfg.InBounds →
    (∀ x, clampDuty cfg (clampDuty cfg x) = clampDuty cfg x) ∧
    (∀ x y, x ≤ y → clampDuty cfg x ≤ clampDuty cfg y) ∧
    (∀ x, x ≤ safeMaxDuty cfg → clampDuty cfg x = x) ∧
    (∀ x, clampDuty cfg x < cfg.pwmPeriod)) ∧
  (∀ rng : BitVec 32,
    clampDuty (Config.cfg0 rng) 0 = 0 ∧ clampDuty (Config.cfg0 rng) 32766 = 32766 ∧
    clampDuty (Config.cfg0 rng) 32767 = 32767 ∧ clampDuty (Config.cfg0 rng) 32768 = 32767 ∧
    clampDuty (Config.cfg0 rng) 36044 = 32767 ∧ clampDuty (Config.cfg0 rng) 0xFFFFFFFF = 32767) ∧
  (∀ cfg : Cfg, cfg.pwmPeriod = 2 →
    safeMaxDuty cfg = 1 ∧ clampDuty cfg 0 = 0 ∧ clampDuty cfg 1 = 1 ∧ clampDuty cfg 2 = 1) ∧
  (∀ cfg : Cfg, cfg.pwmPeriod = 65536 → safeMaxDuty cfg = 0xFFFF ∧ clampDuty cfg 65536 = 65535)

/-- For every legal configuration and every seed, the updated word is (seed * 2 mod 2^32) xor (seed / 2^30) xor
RNG_CONST, and bit by bit as rule R72 lists; the speed is MIN_SPEED plus the updated word modulo MAX_SPEED -
MIN_SPEED + 1, which is at least 1; with a span of 1 the speed is MIN_SPEED. [R72] -/
def Obligations.DrawUpdatesTheWordAndReducesIntoTheRange : Prop :=
  ∀ (cfg : Cfg) (seed : BitVec 32), cfg.InBounds →
    (nextStateSpeed cfg seed).1 =
      BitVec.ofNat 32 (seed.toNat * 2 % 2 ^ 32) ^^^ BitVec.ofNat 32 (seed.toNat / 2 ^ 30) ^^^ cfg.rngConst ∧
    1 ≤ cfg.maxSpeed - cfg.minSpeed + 1 ∧
    (nextStateSpeed cfg seed).2.toNat =
      cfg.minSpeed + (nextStateSpeed cfg seed).1.toNat % (cfg.maxSpeed - cfg.minSpeed + 1) ∧
    (cfg.maxSpeed = cfg.minSpeed → (nextStateSpeed cfg seed).2.toNat = cfg.minSpeed) ∧
    (∀ k : Nat, 2 ≤ k → k ≤ 31 →
      ((nextStateSpeed cfg seed).1 ^^^ cfg.rngConst).getLsbD k = seed.getLsbD (k - 1)) ∧
    ((nextStateSpeed cfg seed).1 ^^^ cfg.rngConst).getLsbD 1 = (seed.getLsbD 0 ^^ seed.getLsbD 31) ∧
    ((nextStateSpeed cfg seed).1 ^^^ cfg.rngConst).getLsbD 0 = seed.getLsbD 30

/-- For every legal configuration and every seed, MIN_SPEED <= speed <= MAX_SPEED; this is the only range fact about a
draw. [R76, R70, R72] -/
def Obligations.DrawnSpeedIsWithinTheBounds : Prop :=
  ∀ (cfg : Cfg) (seed : BitVec 32), cfg.InBounds →
    cfg.minSpeed ≤ (nextStateSpeed cfg seed).2.toNat ∧ (nextStateSpeed cfg seed).2.toNat ≤ cfg.maxSpeed

/-- With RNG_CONST 0 the word 0 is kept by every draw and every draw is speed 1; the words 0x80000000, 0x40000000 and
0xFFFFFFFF update as listed; 1 and 0x80000000 update to the same word; with RNG_CONST 0 the word 0x40000000 reaches
0 in two draws; 0xFFFFFFFD reduces as an unsigned number to speed 4. [R74] -/
def Obligations.GeneratorCornerCases : Prop :=
  (∀ n : Nat, (nextSeed (Config.cfg0 0#32))^[n] 0#32 = 0#32 ∧
    speedOf (Config.cfg0 0#32) ((nextSeed (Config.cfg0 0#32))^[n + 1] 0#32) = 1#8) ∧
  (∀ rng : BitVec 32,
    nextSeed (Config.cfg0 rng) 0x80000000#32 = 2#32 ^^^ rng ∧
    nextSeed (Config.cfg0 rng) 0x40000000#32 = 0x80000001#32 ^^^ rng ∧
    nextSeed (Config.cfg0 rng) 0xFFFFFFFF#32 = 0xFFFFFFFD#32 ^^^ rng ∧
    nextSeed (Config.cfg0 rng) 1#32 = nextSeed (Config.cfg0 rng) 0x80000000#32 ∧
    speedOf (Config.cfg0 rng) 0xFFFFFFFD#32 = 4#8) ∧
  nextSeed (Config.cfg0 0#32) 0x40000000#32 = 0x80000001#32 ∧
  nextSeed (Config.cfg0 0#32) 0x80000001#32 = 0#32

/-- For every hue of the domain: the region and the remainder by formula, the region at most 5, the remainder at most
250 and equal to 250 at the top of a region, and 0 exactly at the multiples of 60. [R84] -/
def Obligations.RegionAndRemainderOfAHue : Prop :=
  ∀ h : Fin 360,
    (regionOf h).val = h.val / 60 ∧ (regionOf h).val ≤ 5 ∧
    remainderOf h.val = h.val % 60 * 255 / 60 ∧ h.val % 60 ≤ 59 ∧
    remainderOf h.val ≤ 250 ∧ (h.val % 60 = 59 → remainderOf h.val = 250) ∧
    (remainderOf h.val = 0 ↔ 60 ∣ h.val)

/-- For every saturation and brightness up to 255 and every remainder up to 250: p, q and t by the integer formulas of
rule R85, both inner subtractions from 255 are non-negative, and each result is at most v. [R85] -/
def Obligations.SectorIntermediatesNeverExceedTheBrightness : Prop :=
  ∀ s v rem : Nat, s ≤ 255 → v ≤ 255 → rem ≤ 250 →
    pOf s v = v * (255 - s) / 255 ∧
    qOf s v rem = v * (255 - s * rem / 255) / 255 ∧
    tOf s v rem = v * (255 - s * (255 - rem) / 255) / 255 ∧
    s * rem / 255 ≤ 250 ∧ s * (255 - rem) / 255 ≤ 255 ∧
    pOf s v ≤ v ∧ qOf s v rem ≤ v ∧ tOf s v rem ≤ v

/-- For every hue, saturation and brightness the triple selected is (v,t,p), (q,v,p), (p,v,t), (p,q,v), (t,p,v), (v,p,q)
in the six hue ranges of 60; for saturation and brightness up to 255 its members are at most 255; a hue of 360 or
more is refused with DOMAIN and reaches no sector. [R86] -/
def Obligations.SectorTableAssignsTheChannels : Prop :=
  (∀ (h : Fin 360) (s v : Nat),
    let p := pOf s v
    let q := qOf s v (remainderOf h.val)
    let t := tOf s v (remainderOf h.val)
    (h.val ≤ 59 → sectorTriple h s v = ⟨v, t, p⟩) ∧
    (60 ≤ h.val → h.val ≤ 119 → sectorTriple h s v = ⟨q, v, p⟩) ∧
    (120 ≤ h.val → h.val ≤ 179 → sectorTriple h s v = ⟨p, v, t⟩) ∧
    (180 ≤ h.val → h.val ≤ 239 → sectorTriple h s v = ⟨p, q, v⟩) ∧
    (240 ≤ h.val → h.val ≤ 299 → sectorTriple h s v = ⟨t, p, v⟩) ∧
    (300 ≤ h.val → sectorTriple h s v = ⟨v, p, q⟩)) ∧
  (∀ (h : Fin 360) (s v : Nat), s ≤ 255 → v ≤ 255 →
    (sectorTriple h s v).r ≤ 255 ∧ (sectorTriple h s v).g ≤ 255 ∧ (sectorTriple h s v).b ≤ 255) ∧
  (∀ (cfg : Cfg) (hue : BitVec 9) (sat val : BitVec 8) (s : State), 360 ≤ hue.toNat →
    convertIn cfg hue sat val s = refuse .domain s)

/-- For every legal configuration, hue, non-zero saturation and brightness, each output is the clamp of ((c8 *
PWM_PERIOD) / 255 * CAL) / 100; for c8 up to 255 the scaled value is at most PWM_PERIOD, the calibrated value at
most 167116, and both products are below 2^24 and 2^32. [R87] -/
def Obligations.ChannelIsScaledCalibratedThenClamped : Prop :=
  ∀ cfg : Cfg, cfg.InBounds →
    (∀ (h : Fin 360) (s v : BitVec 8), s ≠ 0#8 →
      let c := sectorTriple h s.toNat v.toNat
      hsv2duty cfg h s v =
        ⟨clampDuty cfg (c.r * cfg.pwmPeriod / 255 * cfg.calR / 100),
         clampDuty cfg (c.g * cfg.pwmPeriod / 255 * cfg.calG / 100),
         clampDuty cfg (c.b * cfg.pwmPeriod / 255 * cfg.calB / 100)⟩ ∧
      c.r ≤ 255 ∧ c.g ≤ 255 ∧ c.b ≤ 255) ∧
    (∀ c8 cal : Nat, c8 ≤ 255 → cal ≤ 255 →
      c8 * cfg.pwmPeriod < 2 ^ 24 ∧ scaleDuty cfg c8 ≤ cfg.pwmPeriod ∧
      scaleDuty cfg c8 * cal < 2 ^ 32 ∧ calibrate (scaleDuty cfg c8) cal ≤ 167116 ∧
      channelDuty cfg cal c8 ≤ safeMaxDuty cfg)

/-- For every configuration, hue and brightness, hsv2duty(h, 0, v) is (a, a, a) with a the clamp of (v * PWM_PERIOD) /
255; no calibration enters; for CFG0 the values at 255, 220 and 0 are 32767, 28270 and 0. [R83] -/
def Obligations.AchromaticTripleIgnoresHueAndCalibration : Prop :=
  (∀ (cfg : Cfg) (h : Fin 360) (v : BitVec 8),
    hsv2duty cfg h 0#8 v =
      ⟨clampDuty cfg (v.toNat * cfg.pwmPeriod / 255), clampDuty cfg (v.toNat * cfg.pwmPeriod / 255),
       clampDuty cfg (v.toNat * cfg.pwmPeriod / 255)⟩) ∧
  (∀ (rng : BitVec 32) (h : Fin 360),
    scaleDuty (Config.cfg0 rng) 255 = 32768 ∧
    hsv2duty (Config.cfg0 rng) h 0#8 255#8 = ⟨32767, 32767, 32767⟩ ∧
    hsv2duty (Config.cfg0 rng) h 0#8 220#8 = ⟨28270, 28270, 28270⟩ ∧
    hsv2duty (Config.cfg0 rng) h 0#8 0#8 = ⟨0, 0, 0⟩)

/-- For every legal configuration and every input of the domain the three outputs are at most SAFE_MAX_DUTY <
PWM_PERIOD; under CFG0 the unclamped red value at v = 255 is 32768 and the unclamped blue one 36044, and both are
brought to 32767. [R90] -/
def Obligations.EveryOutputStaysBelowThePeriod : Prop :=
  (∀ (cfg : Cfg) (h : Fin 360) (s v : BitVec 8), cfg.InBounds →
    (hsv2duty cfg h s v).r ≤ safeMaxDuty cfg ∧ (hsv2duty cfg h s v).g ≤ safeMaxDuty cfg ∧
    (hsv2duty cfg h s v).b ≤ safeMaxDuty cfg ∧ safeMaxDuty cfg < cfg.pwmPeriod) ∧
  (∀ rng : BitVec 32,
    calibrate (scaleDuty (Config.cfg0 rng) 255) (Config.cfg0 rng).calR = 32768 ∧
    calibrate (scaleDuty (Config.cfg0 rng) 255) (Config.cfg0 rng).calB = 36044 ∧
    channelDuty (Config.cfg0 rng) (Config.cfg0 rng).calR 255 = 32767 ∧
    channelDuty (Config.cfg0 rng) (Config.cfg0 rng).calB 255 = 32767)

/-- For every configuration with a period of at least 1, brightness 0 gives (0, 0, 0) at every hue and saturation; at
saturation 255, p is 0; at a hue that is a multiple of 60, q is v and t is p; and the worked values (d) to (g) of
rule R92 for CFG0. [R92] -/
def Obligations.ConverterCornerCases : Prop :=
  (∀ (cfg : Cfg) (h : Fin 360) (s : BitVec 8), hsv2duty cfg h s 0#8 = ⟨0, 0, 0⟩) ∧
  (∀ v : Nat, pOf 255 v = 0) ∧
  (∀ (h : Fin 360) (s v : Nat), s ≤ 255 → 60 ∣ h.val →
    qOf s v (remainderOf h.val) = v ∧ tOf s v (remainderOf h.val) = pOf s v) ∧
  (∀ rng : BitVec 32,
    hsv2duty (Config.cfg0 rng) 59 255#8 220#8 = ⟨28270, 23482, 0⟩ ∧
    hsv2duty (Config.cfg0 rng) 60 255#8 220#8 = ⟨28270, 24029, 0⟩ ∧
    hsv2duty (Config.cfg0 rng) 359 255#8 255#8 = ⟨32767, 0, 706⟩ ∧
    hsv2duty (Config.cfg0 rng) 150 1#8 255#8 = ⟨32639, 27852, 32767⟩)

/-- hsv2duty(0, 255, 220) is (28270, 0, 0) from (r8, g8, b8) = (220, 0, 0), and hsv2duty(300, 255, 220) is (28270, 0,
31097) from (220, 0, 220), for every RNG_CONST. [R95] -/
def Obligations.SourceScenariosAtHuesZeroAndThreeHundred : Prop :=
  ∀ rng : BitVec 32,
    sectorTriple 0 255 220 = ⟨220, 0, 0⟩ ∧ sectorTriple 300 255 220 = ⟨220, 0, 220⟩ ∧
    hsv2duty (Config.cfg0 rng) 0 255#8 220#8 = ⟨28270, 0, 0⟩ ∧
    hsv2duty (Config.cfg0 rng) 300 255#8 220#8 = ⟨28270, 0, 31097⟩

/-- For every operands and every state, INIT answers a next state in which registers 1 to 6 are the once-updated seed,
the hue 0, the counter 0, the speed drawn, sat and val; STATUS has bit 0 set and every other bit as before; the
response is all zeros; no channel write is emitted; what the host will still present is unchanged. [R107, R106, R23] -/
def Obligations.InitLoadsTheRegistersAndDrawsOnce : Prop :=
  ∀ (sat val : BitVec 8) (seed : BitVec 32) (s : State),
    exec (.init sat val seed) s = .next { s with
      status := s.status ||| 1#32
      held := some
        { seed := (nextStateSpeed Config.cfg seed).1
          hueStep := 0#9
          stepCounter := 0#8
          currentSpeed := (nextStateSpeed Config.cfg seed).2
          sat := sat
          val := val }
      trace := s.trace ++ [.response 0#64] }

/-- In the running state with a hue of at most 359 and an incremented counter still below CURRENT_SPEED, ADVANCE answers
a next state in which only the counter has grown by 1; the triple of the unchanged hue leaves on channels 0, 1, 2 in
that order, then the zero response; every other register, STATUS and the host's inputs are unchanged. [R110, R111,
R112] -/
def Obligations.AdvanceBelowTheSpeedKeepsTheHue : Prop :=
  ∀ (s : State) (r : HeldRegs) (h : Fin 360), heldRegs s = some r → r.hueStep.toNat = h.val →
    r.stepCounter.toNat + 1 < r.currentSpeed.toNat →
    exec .advance s = .next { s with
      held := some { r with stepCounter := r.stepCounter + 1#8 }
      trace := s.trace ++ tripleWrites (hsv2duty Config.cfg h r.sat r.val) ++ [.response 0#64] }

/-- In the running state with a hue of at most 358 and an incremented counter that reaches CURRENT_SPEED, ADVANCE
answers a next state with the counter 0 and the hue one more; the triple is that of the updated hue; no draw is
made; nothing else changes. [R110, R111, R112] -/
def Obligations.AdvanceAtTheSpeedStepsTheHue : Prop :=
  ∀ (s : State) (r : HeldRegs) (h : Fin 360), heldRegs s = some r → r.hueStep.toNat + 1 = h.val →
    r.currentSpeed.toNat ≤ r.stepCounter.toNat + 1 →
    exec .advance s = .next { s with
      held := some { r with stepCounter := 0#8, hueStep := r.hueStep + 1#9 }
      trace := s.trace ++ tripleWrites (hsv2duty Config.cfg h r.sat r.val) ++ [.response 0#64] }

/-- In the running state with the hue 359 and an incremented counter that reaches CURRENT_SPEED, ADVANCE answers a next
state with the counter 0, the hue 0, the seed updated once and the speed drawn from it; the triple is that of hue 0;
nothing else changes. [R110, R111, R112] -/
def Obligations.AdvanceAtTheLastHueWrapsAndDraws : Prop :=
  ∀ (s : State) (r : HeldRegs), heldRegs s = some r → r.hueStep = 359#9 →
    r.currentSpeed.toNat ≤ r.stepCounter.toNat + 1 →
    exec .advance s = .next { s with
      held := some { r with
        stepCounter := 0#8
        hueStep := 0#9
        seed := (nextStateSpeed Config.cfg r.seed).1
        currentSpeed := (nextStateSpeed Config.cfg r.seed).2 }
      trace := s.trace ++ tripleWrites (hsv2duty Config.cfg 0 r.sat r.val) ++ [.response 0#64] }

/-- In the running state NEXT_SPEED answers a next state in which SEED is the updated word and every other register,
STATUS and the host's inputs are unchanged; the response carries the speed in bits 7:0; no channel write is emitted.
[R73, R58] -/
def Obligations.NextSpeedAdvancesOnlyTheSeed : Prop :=
  ∀ (s : State) (r : HeldRegs), heldRegs s = some r →
    exec .nextSpeed s = .next { s with
      held := some { r with seed := (nextStateSpeed Config.cfg r.seed).1 }
      trace := s.trace ++ [.response ((nextStateSpeed Config.cfg r.seed).2.zeroExtend 64)] }

/-- In every state, initialised or not, CONVERT of a hue below 360 answers a next state whose response carries r in bits
47:32, g in 31:16 and b in 15:0 under code 0; no register is changed and no channel write is emitted. [R89, R58,
R93] -/
def Obligations.ConvertInsideTheDomainAnswersTheTriple : Prop :=
  ∀ (s : State) (hue : BitVec 9) (sat val : BitVec 8) (h : Fin 360), hue.toNat = h.val →
    ∃ rsp : RspWord,
      exec (.convert hue sat val) s = .next { s with trace := s.trace ++ [.response rsp] } ∧
      rsp.extractLsb' 48 16 = 0#16 ∧
      (rsp.extractLsb' 32 16).toNat = (hsv2duty Config.cfg h sat val).r ∧
      (rsp.extractLsb' 16 16).toNat = (hsv2duty Config.cfg h sat val).g ∧
      (rsp.extractLsb' 0 16).toNat = (hsv2duty Config.cfg h sat val).b

/-- In every state CONVERT of a hue of 360 or more, at every saturation, 0 included, answers a next state with
STATUS.ERR_DOMAIN set and the response 0x2000000000000000; nothing else changes. [R82, R89, R128] -/
def Obligations.ConvertOutsideTheDomainIsRefused : Prop :=
  ∀ (s : State) (hue : BitVec 9) (sat val : BitVec 8), 360 ≤ hue.toNat →
    exec (.convert hue sat val) s = .next { s with
      status := s.status ||| 0x4#32
      trace := s.trace ++ [.response 0x2000000000000000#64] }

/-- In every state CLAMP x answers a next state whose response is the smaller of x and PWM_PERIOD - 1 in bits 15:0; no
register is changed and no channel write is emitted. [R102, R101] -/
def Obligations.ClampAnswersTheClampedOperand : Prop :=
  ∀ (s : State) (x : BitVec 32),
    exec (.clamp x) s = .next { s with
      trace := s.trace ++ [.response (BitVec.ofNat 64 (min x.toNat (Config.cfg.pwmPeriod - 1)))] }

/-- RDREG 0 completes in every state and answers STATUS with bits 31:4 zero; in the running state RDREG 1 to 6 answer
SEED, HUE_STEP, STEP_COUNTER, CURRENT_SPEED, SAT, VAL, zero-extended; the response is all that is added, every
register and the host's inputs are unchanged. [R121, R123, R41, R23] -/
def Obligations.RdregAnswersTheRegister : Prop :=
  (∀ s : State, exec (.rdreg 0#4) s =
    .next { s with trace := s.trace ++ [.response ((s.status &&& 0xF#32).zeroExtend 64)] }) ∧
  (∀ (s : State) (r : HeldRegs), heldRegs s = some r →
    exec (.rdreg 1#4) s = .next { s with trace := s.trace ++ [.response (r.seed.zeroExtend 64)] } ∧
    exec (.rdreg 2#4) s = .next { s with trace := s.trace ++ [.response (r.hueStep.zeroExtend 64)] } ∧
    exec (.rdreg 3#4) s = .next { s with trace := s.trace ++ [.response (r.stepCounter.zeroExtend 64)] } ∧
    exec (.rdreg 4#4) s = .next { s with trace := s.trace ++ [.response (r.currentSpeed.zeroExtend 64)] } ∧
    exec (.rdreg 5#4) s = .next { s with trace := s.trace ++ [.response (r.sat.zeroExtend 64)] } ∧
    exec (.rdreg 6#4) s = .next { s with trace := s.trace ++ [.response (r.val.zeroExtend 64)] })

/-- RDREG 0 straight after reset answers 0; RDREG 1 straight after reset is refused with NOT_INIT and leaves STATUS 8,
which RDREG 0 then answers; RDREG of 7 to 15 is refused with ILLEGAL in every state, also before INIT. [R122, R129] -/
def Obligations.RdregCornerCases : Prop :=
  exec (.rdreg 0#4) State.reset = .next { State.reset with trace := [.response 0#64] } ∧
  exec (.rdreg 1#4) State.reset =
    .next { State.reset with status := 8#32, trace := [.response 0x3000000000000000#64] } ∧
  (∀ s : State, s.status = 8#32 →
    exec (.rdreg 0#4) s = .next { s with trace := s.trace ++ [.response 8#64] }) ∧
  (∀ (s : State) (n : BitVec 4), 7 ≤ n.toNat →
    exec (.rdreg n) s = .next { s with
      status := s.status ||| 0x2#32
      trace := s.trace ++ [.response 0x1000000000000000#64] })

/-- In every state with STATUS.INITED = 0, ADVANCE, NEXT_SPEED and RDREG of 1 to 6 answer a next state with
STATUS.ERR_NOT_INIT set and the response 0x3000000000000000; no channel write is emitted and nothing else changes.
[R30, R127, R128, R110, R73, R121] -/
def Obligations.CommandsWithoutAValueAreRefused : Prop :=
  ∀ s : State, s.status.getLsbD 0 = false →
    let t : State := { s with
      status := s.status ||| 0x8#32
      trace := s.trace ++ [.response 0x3000000000000000#64] }
    exec .advance s = .next t ∧ exec .nextSpeed s = .next t ∧
    ∀ n : BitVec 4, 1 ≤ n.toNat → n.toNat ≤ 6 → exec (.rdreg n) s = .next t

/-- For every cause and every state: STATUS[code] becomes 1 and every other bit of STATUS is kept; registers 1 to 6 and
the host's inputs are kept; the one event added is the response, which is the code in bits 63:60 and zeros below.
[R128] -/
def Obligations.RefusalSetsItsStickyBitAndNothingElse : Prop :=
  ∀ (c : Cause) (s : State),
    let code : Nat := match c with | .illegal => 1 | .domain => 2 | .notInit => 3
    (∀ k : Nat, (refuse c s).status.getLsbD k = (decide (k = code) || s.status.getLsbD k)) ∧
    (refuse c s).held = s.held ∧ (refuse c s).inputs = s.inputs ∧
    (refuse c s).trace = s.trace ++ [.response (BitVec.ofNat 64 (code * 2 ^ 60))]

/-- Whenever the state invariant holds, the response to a command word has code 1 exactly for the words of the ILLEGAL
column, code 3 exactly for the legal words of the NOT_INIT column while STATUS.INITED is 0, code 2 exactly for the
legal words of the DOMAIN column, and code 0 for all others. [R127] -/
def Obligations.RefusalTable : Prop :=
  ∀ (cfg : Cfg) (s : State) (w : CmdWord) (rest : List Input),
    StateOk cfg s → s.inputs = .command w :: rest →
    ∃ evs rsp, (stepIn cfg s).trace = s.trace ++ evs ++ [.response rsp] ∧
      (codeOf rsp = 1#4 ↔ IllegalWord w) ∧
      (codeOf rsp = 3#4 ↔ ¬ IllegalWord w ∧ NeedsInit w ∧ s.status.getLsbD 0 = false) ∧
      (codeOf rsp = 2#4 ↔ ¬ IllegalWord w ∧ HueOutside w) ∧
      (codeOf rsp = 0#4 ↔
        ¬ IllegalWord w ∧ ¬ (NeedsInit w ∧ s.status.getLsbD 0 = false) ∧ ¬ HueOutside w)

/-- In the running state every well-formed command whose hue, if it has one, is below 360 answers a next state whose
response has code OK, and no sticky bit changes: a saturating clamp is recorded nowhere. [R140] -/
def Obligations.RunningCommandsSucceed : Prop :=
  ∀ (i : Instr) (s : State) (r : HeldRegs), heldRegs s = some r → i.wf = true →
    (∀ hue sat val, i = .convert hue sat val → hue.toNat < 360) →
    ∃ t evs rsp, exec i s = .next t ∧ stickyBits t.status = stickyBits s.status ∧
      t.trace = s.trace ++ evs ++ [.response rsp] ∧ codeOf rsp = okCode

/-- When the host's next action is a command word that decodes to a well-formed command i, the step is exec of i in the
state in which that word has been taken from what the host will present; nothing else is added around exec. That the
host's commands stand in a list of the state is the model's choice (log entry 4). [20_memory.md R42, 20_memory.md
R45] -/
def Obligations.StepRunsTheDecodedCommand : Prop :=
  ∀ (s : State) (w : CmdWord) (rest : List Input) (i : Instr),
    s.inputs = .command w :: rest → decode w = .ok i → i.wf = true →
    step s = exec i { s with inputs := rest }

/-- A step with nothing presented is the same state; a step that takes the reset input leaves STATUS 0 and registers 1
to 6 holding no value, emits nothing, and keeps what the host will present after it; and the state after reset has
STATUS 0, no values, nothing presented and nothing emitted. The list of the host's actions and the trace are the
model's (log entries 4 and 5). [70_reset_and_hazards.md R146, 70_reset_and_hazards.md R145, 70_reset_and_hazards.md
R147, 60_exceptions.md R139] -/
def Obligations.IdleStepAndResetInput : Prop :=
  (∀ s : State, s.inputs = [] → step s = .next s) ∧
  (∀ (s : State) (rest : List Input), s.inputs = .reset :: rest →
    step s = .next { status := 0#32, held := none, inputs := rest, trace := s.trace }) ∧
  State.reset = { status := 0#32, held := none, inputs := [], trace := [] } ∧
  heldRegs State.reset = none

/-- For every state the step is a next state and is the parametric machine's step at Config.cfg, so that a statement
about every configuration is one about this machine. [00_scope.md R5, 00_scope.md R10] -/
def Obligations.StepIsTheParametricMachineAtThisConfiguration : Prop :=
  ∀ s : State, step s = .next (stepIn Config.cfg s)

/-- From every state in which bits 31:4 of STATUS are 0, registers 1 to 6 hold values exactly when INITED is 1, and the
held values are in the ranges of rule R31, every step answers a next state with the same properties, under every
legal configuration and for the machine itself. [R31, R30, R23, R113, R25] -/
def Obligations.EveryStepKeepsTheStateInvariant : Prop :=
  (∀ (cfg : Cfg) (s : State), cfg.InBounds → StateOk cfg s → StateOk cfg (stepIn cfg s)) ∧
  (∀ s t : State, StateOk Config.cfg s → step s = .next t → StateOk Config.cfg t)

/-- Under every configuration the state after reset has the reserved STATUS bits 0, no held values with INITED 0, and an
empty trace. [R35, R146, R30] -/
def Obligations.ResetMeetsTheInvariants : Prop :=
  ∀ cfg : Cfg, StateOk cfg State.reset ∧ TraceOk cfg State.reset

/-- From every state, in range or not, whose trace so far is legal, every step adds only channel writes on channels 0 to
2 with a duty of at most SAFE_MAX_DUTY and responses with a code of 0 to 3, zeros in bits 59:48 and a zero payload
on a refusal, under every legal configuration and for the machine itself. [R43, R57, R59, R90, R112, R100] -/
def Obligations.EveryStepKeepsThePortsLegal : Prop :=
  (∀ (cfg : Cfg) (s : State), cfg.InBounds → TraceOk cfg s → TraceOk cfg (stepIn cfg s)) ∧
  (∀ s t : State, TraceOk Config.cfg s → step s = .next t → TraceOk Config.cfg t)

/-- Under every legal configuration, from every state, in range or not, the state after INIT has INITED set, sees values
in registers 1 to 6, and those are in the ranges of rule R31. [R108, R31] -/
def Obligations.InitEstablishesTheRanges : Prop :=
  ∀ (cfg : Cfg) (sat val : BitVec 8) (seed : BitVec 32) (s : State), cfg.InBounds →
    ∃ r, heldRegs (execIn cfg (.init sat val seed) s) = some r ∧ RegsOk cfg r

/-- A step that takes a command word adds to the trace first its channel writes and then exactly one response; the
writes are three, on channels 0, 1, 2 in that order, each at most SAFE_MAX_DUTY, if the word is ADVANCE and
registers 1 to 6 hold values, and none otherwise. [R44, R43, R48, R112] -/
def Obligations.EachCommandIsAnsweredOnceAfterItsWrites : Prop :=
  ∀ (cfg : Cfg) (s : State) (w : CmdWord) (rest : List Input), s.inputs = .command w :: rest →
    ∃ evs rsp, (stepIn cfg s).trace = s.trace ++ evs ++ [.response rsp] ∧ (stepIn cfg s).inputs = rest ∧
      (w = 0x2000000000000000#64 ∧ heldRegs s ≠ none →
        ∃ d : Triple, d.r ≤ safeMaxDuty cfg ∧ d.g ≤ safeMaxDuty cfg ∧ d.b ≤ safeMaxDuty cfg ∧
          evs = tripleWrites d) ∧
      (¬ (w = 0x2000000000000000#64 ∧ heldRegs s ≠ none) → evs = [])

/-- From every state, running the machine for as many steps as the host has actions ends in a next state with nothing
left to present, with one response added for each command and none for a reset, and with everything that had left
the block before still in the trace. [R156, R158, R44, R56] -/
def Obligations.EveryCommandOfAFiniteSequenceIsAnswered : Prop :=
  ∀ s : State, ∃ t : State,
    Host.Core.run Sys2Proof.core s.inputs.length s = .next t ∧ t.inputs = [] ∧
    (responsesOf t.trace).length =
      (responsesOf s.trace).length + (s.inputs.filter Input.isCommand).length ∧
    ∃ evs, t.trace = s.trace ++ evs

/-- A step that takes a command leaves every sticky bit that was set still set, and INITED if it was set; a step that
takes the reset input clears the three sticky bits and INITED. [R134, R23, R105] -/
def Obligations.StickyBitsAreClearedOnlyByReset : Prop :=
  (∀ (cfg : Cfg) (s : State) (w : CmdWord) (rest : List Input), s.inputs = .command w :: rest →
    stickyBits (stepIn cfg s).status &&& stickyBits s.status = stickyBits s.status ∧
    (s.status.getLsbD 0 = true → (stepIn cfg s).status.getLsbD 0 = true)) ∧
  (∀ (cfg : Cfg) (s : State) (rest : List Input), s.inputs = .reset :: rest →
    stickyBits (stepIn cfg s).status = 0#3 ∧ (stepIn cfg s).status.getLsbD 0 = false)

/-- For every configuration, every sequence of command words and every number of steps from reset, STATUS[3:1] is 0
exactly when every response so far has the code OK: one read of STATUS establishes that no refusal has happened
since reset. [R134, R128, R142] -/
def Obligations.StatusTellsWhetherAnyRefusalHappened : Prop :=
  ∀ (cfg : Cfg) (ws : List CmdWord) (k : Nat),
    let t := runIn cfg k { State.reset with inputs := ws.map Input.command }
    stickyBits t.status = 0#3 ↔ ∀ w ∈ responsesOf t.trace, codeOf w = okCode

/-- In the running state a command keeps registers 1 to 6 holding values; SEED changes only by INIT, NEXT_SPEED or an
ADVANCE after which the hue is 0; CURRENT_SPEED only by INIT or such an ADVANCE; HUE_STEP and STEP_COUNTER only by
INIT or ADVANCE; SAT and VAL only by INIT. [R22, R24, R26, R28, R29] -/
def Obligations.OnlyTheListedCommandsWriteARegister : Prop :=
  ∀ (cfg : Cfg) (i : Instr) (s : State) (r : HeldRegs), heldRegs s = some r →
    ∃ r', heldRegs (execIn cfg i s) = some r' ∧
      ((∃ sat val seed, i = .init sat val seed) ∨
        (r'.sat = r.sat ∧ r'.val = r.val ∧
          (i = .advance ∨ (r'.hueStep = r.hueStep ∧ r'.stepCounter = r.stepCounter)) ∧
          (r'.currentSpeed = r.currentSpeed ∨ (i = .advance ∧ r'.hueStep = 0#9)) ∧
          (r'.seed = r.seed ∨ i = .nextSpeed ∨ (i = .advance ∧ r'.hueStep = 0#9))))

/-- For every configuration and state there is one outcome of the registers, of what is still presented and of the
events added, the same whatever the trace held before the step. [R34] -/
def Obligations.TheOutputTraceIsNeverRead : Prop :=
  ∀ (cfg : Cfg) (s : State), ∃ (u : State) (evs : List OutEvent), ∀ pre : List OutEvent,
    stepIn cfg { s with trace := pre } = { u with trace := pre ++ evs }

/-- From every state, presenting a successful RDREG before everything else and then running k + 1 steps ends in the
registers and the remaining inputs of k steps without it, and the two traces differ by the inserted response alone.
[R123] -/
def Obligations.InsertedRdregIsInvisible : Prop :=
  ∀ (cfg : Cfg) (s : State) (n : BitVec 4) (reg : RegName) (v : BitVec 32) (k : Nat),
    regOfNumber n = some reg → readReg reg s = some v →
    let t := runIn cfg k s
    let t' := runIn cfg (k + 1) (presentCommand (encode (.rdreg n)) s)
    t'.status = t.status ∧ t'.held = t.held ∧ t'.inputs = t.inputs ∧
    ∃ evs, t.trace = s.trace ++ evs ∧ t'.trace = s.trace ++ [.response (v.zeroExtend 64)] ++ evs

/-- From every state and for every cause, if no RDREG 0 is among the actions still presented, k steps after a refusal
give the same held registers, the same remaining inputs and the same added events as k steps without it, and the two
STATUS words differ in the sticky bits alone. [R132, R128] -/
def Obligations.RefusedCommandsLeaveLaterOnesAlone : Prop :=
  ∀ (cfg : Cfg) (c : Cause) (s : State) (k : Nat), .command 0x6000000000000000#64 ∉ s.inputs →
    let t := runIn cfg k s
    let t' := runIn cfg k (refuse c s)
    t'.held = t.held ∧ t'.inputs = t.inputs ∧ t'.status ||| 0xE#32 = t.status ||| 0xE#32 ∧
    ∃ evs, t.trace = s.trace ++ evs ∧ t'.trace = (refuse c s).trace ++ evs

/-- For every configuration, every sequence of the host's actions, resets included, in which no command word has the
opcode of INIT, and every number of steps from reset, no channel write has left the block and registers 1 to 6 hold
no value. [R147, R30, R142, R127] -/
def Obligations.NoChannelWriteBeforeInit : Prop :=
  ∀ (cfg : Cfg) (l : List Input) (k : Nat),
    (∀ w : CmdWord, .command w ∈ l → w.extractLsb' 60 4 ≠ 0x1#4) →
    let t := runIn cfg k { State.reset with inputs := l }
    chanWritesOf t.trace = [] ∧ t.held = none

/-- For every configuration, two successful ADVANCE from states with the same SAT and VAL that leave the same hue add
the same events, whatever the other registers; one that leaves hue 0 emits the triple of hue 0; after an INIT that
draws speed k, the first k - 1 ADVANCE leave hue 0, and for k = 1 the j-th leaves hue j up to 359 and the 360th
leaves hue 0. [R115] -/
def Obligations.AdvanceShowsAFunctionOfOperatingPointAndHue : Prop :=
  (∀ (cfg : Cfg) (s₁ s₂ : State) (r₁ r₂ r₁' r₂' : HeldRegs),
    heldRegs s₁ = some r₁ → heldRegs s₂ = some r₂ → r₁.sat = r₂.sat → r₁.val = r₂.val →
    heldRegs (execIn cfg .advance s₁) = some r₁' → heldRegs (execIn cfg .advance s₂) = some r₂' →
    r₁'.hueStep = r₂'.hueStep →
    ∃ evs, (execIn cfg .advance s₁).trace = s₁.trace ++ evs ∧ (execIn cfg .advance s₂).trace = s₂.trace ++ evs) ∧
  (∀ (cfg : Cfg) (s : State) (r r' : HeldRegs), heldRegs s = some r →
    heldRegs (execIn cfg .advance s) = some r' → r'.hueStep = 0#9 →
    (execIn cfg .advance s).trace = s.trace ++ tripleWrites (hsv2duty cfg 0 r.sat r.val) ++ [.response 0#64]) ∧
  (∀ (cfg : Cfg) (sat val : BitVec 8) (seed : BitVec 32) (s : State) (k j : Nat),
    (nextStateSpeed cfg seed).2.toNat = k → 0 < k →
    let t := (execIn cfg .advance)^[j] (execIn cfg (.init sat val seed) s)
    (1 ≤ j → j < k → ∃ r, heldRegs t = some r ∧ r.hueStep = 0#9) ∧
    (k = 1 → 1 ≤ j → j < 360 → ∃ r, heldRegs t = some r ∧ r.hueStep = BitVec.ofNat 9 j) ∧
    (k = 1 → j = 360 → ∃ r, heldRegs t = some r ∧ r.hueStep = 0#9))

/-- From hue 0 and counter 0 at speed k > 0, after j < 360 * k ADVANCE commands the hue is j / k, the counter j mod k
and everything else unchanged; after 360 * k of them the hue and the counter are 0, the seed has been updated once
and the speed is the one drawn from it; 3 * 360 * k channel writes have been emitted. [R114] -/
def Obligations.OneRevolutionReturnsToHueZeroAndDrawsOnce : Prop :=
  ∀ (cfg : Cfg) (s : State) (r : HeldRegs) (k : Nat) (rest : List Input),
    heldRegs s = some r → r.hueStep = 0#9 → r.stepCounter = 0#8 → r.currentSpeed.toNat = k → 0 < k →
    s.inputs = List.replicate (360 * k) (.command 0x2000000000000000#64) ++ rest →
    (∀ j : Nat, j < 360 * k → heldRegs (runIn cfg j s) =
      some { r with hueStep := BitVec.ofNat 9 (j / k), stepCounter := BitVec.ofNat 8 (j % k) }) ∧
    heldRegs (runIn cfg (360 * k) s) = some { r with
      hueStep := 0#9
      stepCounter := 0#8
      seed := (nextStateSpeed cfg r.seed).1
      currentSpeed := (nextStateSpeed cfg r.seed).2 } ∧
    (chanWritesOf (runIn cfg (360 * k) s).trace).length = (chanWritesOf s.trace).length + 3 * 360 * k

/-- In the running state, after n NEXT_SPEED commands SEED is the n-fold update of the seed, the other held registers
are unchanged, and the responses added are the speeds of the first, the second, ..., the n-th update. [R75, R73] -/
def Obligations.SpeedSequenceIsAFunctionOfTheSeedAndTheDraws : Prop :=
  ∀ (cfg : Cfg) (s : State) (r : HeldRegs) (n : Nat) (rest : List Input), heldRegs s = some r →
    s.inputs = List.replicate n (.command 0x3000000000000000#64) ++ rest →
    heldRegs (runIn cfg n s) = some { r with seed := (nextSeed cfg)^[n] r.seed } ∧
    (runIn cfg n s).trace = s.trace ++ (List.range n).map fun j =>
      .response ((speedOf cfg ((nextSeed cfg)^[j + 1] r.seed)).zeroExtend 64)

/-- After an ADVANCE in the running state the last duty written on channels 0, 1 and 2 is the red, green and blue of the
triple of the hue it leaves; after any other command every channel holds what it held. [R47, R43, R48, R147] -/
def Obligations.SinkHoldsTheLastTriple : Prop :=
  (∀ (cfg : Cfg) (s : State) (r : HeldRegs), heldRegs s = some r →
    ∃ (r' : HeldRegs) (h : Fin 360), heldRegs (execIn cfg .advance s) = some r' ∧ r'.hueStep.toNat = h.val ∧
      sinkDuty 0#2 (execIn cfg .advance s).trace = some (BitVec.ofNat 16 (hsv2duty cfg h r.sat r.val).r) ∧
      sinkDuty 1#2 (execIn cfg .advance s).trace = some (BitVec.ofNat 16 (hsv2duty cfg h r.sat r.val).g) ∧
      sinkDuty 2#2 (execIn cfg .advance s).trace = some (BitVec.ofNat 16 (hsv2duty cfg h r.sat r.val).b)) ∧
  (∀ (cfg : Cfg) (i : Instr) (s : State) (ch : BitVec 2), i ≠ .advance →
    sinkDuty ch (execIn cfg i s).trace = sinkDuty ch s.trace)

/-- For every configuration, brightness, seed and prior state, each of the ADVANCE commands that follow INIT 0, val,
seed emits (a, a, a) with a the clamp of (val * PWM_PERIOD) / 255, whatever the hue. [R108, R83] -/
def Obligations.ZeroSaturationShowsOneColourForEver : Prop :=
  ∀ (cfg : Cfg) (val : BitVec 8) (seed : BitVec 32) (s : State) (n : Nat),
    let a := clampDuty cfg (val.toNat * cfg.pwmPeriod / 255)
    let t := (execIn cfg .advance)^[n] (execIn cfg (.init 0#8 val seed) s)
    (execIn cfg .advance t).trace = t.trace ++ tripleWrites ⟨a, a, a⟩ ++ [.response 0#64]

/-- From every state, initialised or not, in which STATUS[3:1] is 0 exactly when every response that has left the block
has the code OK, every step that does not take the reset input answers a next state with the same property, under
every configuration and for the machine itself. A step that takes the reset input is left out because it clears the
bits while the trace, the model's own record (log entry 5), keeps the earlier responses. [R134, R128, R142] -/
def Obligations.EveryStepWithoutResetKeepsStatusTellingOfRefusals : Prop :=
  (∀ (cfg : Cfg) (s : State), (∀ rest : List Input, s.inputs ≠ .reset :: rest) → StickyOk s → StickyOk (stepIn cfg s)) ∧
  (∀ s t : State, (∀ rest : List Input, s.inputs ≠ .reset :: rest) → StickyOk s → step s = .next t → StickyOk t)

/-- The state after reset has STATUS[3:1] equal to 0 and no response in its trace, so STATUS[3:1] tells there whether
any response was a refusal. [R35, R146, R134] -/
def Obligations.StatusTellsOfRefusalsAfterReset : Prop :=
  stickyBits State.reset.status = 0#3 ∧ responsesOf State.reset.trace = [] ∧ StickyOk State.reset
end

