-- ==== Sys2Proof/Laws/Encoding.lean ====
section
/-! SUPPORT. The bits of a placed field, the format checks, and what `decode` can answer, said once. -/

namespace Sys2Proof

/-- The bits of a field in its place. -/
theorem getLsbD_place (w : Nat) {n : Nat} (x : BitVec n) (lo k : Nat) :
    (place w x lo).getLsbD k = (decide (k < w) && decide (lo ≤ k) && x.getLsbD (k - lo)) := by
  by_cases h : k < w
  · by_cases g : lo ≤ k
    · simp [place, h, g]
    · simp [place, h, g]
  · simp [place, h]

/-- The field read back from its place. -/
@[simp] theorem extract_place_same {w n lo : Nat} (x : BitVec n) (fits : lo + n ≤ w) :
    (place w x lo).extractLsb' lo n = x := by
  apply BitVec.eq_of_getLsbD_eq
  intro k hk
  simp only [BitVec.getLsbD_extractLsb', getLsbD_place, hk]
  have : lo + k < w := by omega
  simp [this]

/-- A placed field leaves the bits above it 0. -/
@[simp] theorem extract_place_above {w n lo : Nat} (x : BitVec n) {start len : Nat} (above : lo + n ≤ start) :
    (place w x lo).extractLsb' start len = 0#len := by
  apply BitVec.eq_of_getLsbD_eq
  intro k hk
  simp only [BitVec.getLsbD_extractLsb', getLsbD_place, hk]
  rw [BitVec.getLsbD_of_ge x _ (by omega)]
  simp

/-- A placed field leaves the bits below it 0. -/
@[simp] theorem extract_place_below {w n lo : Nat} (x : BitVec n) {start len : Nat} (below : start + len ≤ lo) :
    (place w x lo).extractLsb' start len = 0#len := by
  apply BitVec.eq_of_getLsbD_eq
  intro k hk
  simp only [BitVec.getLsbD_extractLsb', getLsbD_place, hk]
  have : ¬ lo ≤ start + k := by omega
  simp [this]

/-- A part of the union of two words is the union of the parts. -/
@[simp] theorem extract_or {w : Nat} (x y : BitVec w) (start len : Nat) :
    (x ||| y).extractLsb' start len = x.extractLsb' start len ||| y.extractLsb' start len := by
  apply BitVec.eq_of_getLsbD_eq
  intro k hk
  simp [hk]

/-- A command whose reserved bits are clear decodes; one with a reserved bit set is rejected. -/
theorem unlessReserved_eq_ok {b : Bool} {i j : Instr} : unlessReserved b i = .ok j ↔ b = false ∧ i = j := by
  cases b <;> simp [unlessReserved]

/-- `decode` answers by one case per opcode (R55). -/
theorem decode_cases (w : CmdWord) :
    (opField w = 0x1#4 ∧ decode w = unlessReserved (reservedI w)
      (.init (w.extractLsb' 40 8) (w.extractLsb' 32 8) (w.extractLsb' 0 32))) ∨
    (opField w = 0x2#4 ∧ decode w = unlessReserved (reservedZ w) .advance) ∨
    (opField w = 0x3#4 ∧ decode w = unlessReserved (reservedZ w) .nextSpeed) ∨
    (opField w = 0x4#4 ∧ decode w = unlessReserved (reservedH w)
      (.convert (w.extractLsb' 16 9) (w.extractLsb' 8 8) (w.extractLsb' 0 8))) ∨
    (opField w = 0x5#4 ∧ decode w = unlessReserved (reservedX w) (.clamp (w.extractLsb' 0 32))) ∨
    (opField w = 0x6#4 ∧ decode w = decodeN w) ∨
    ((opField w = 0x0#4 ∨ 7 ≤ (opField w).toNat) ∧ decode w = .error .reservedOpcode) := by
  unfold decode
  generalize opField w = op
  have key : ∀ op : BitVec 4, op = 1#4 ∨ op = 2#4 ∨ op = 3#4 ∨ op = 4#4 ∨ op = 5#4 ∨ op = 6#4 ∨
      (op = 0#4 ∨ 7 ≤ op.toNat) ∧ op ≠ 1#4 ∧ op ≠ 2#4 ∧ op ≠ 3#4 ∧ op ≠ 4#4 ∧ op ≠ 5#4 ∧ op ≠ 6#4 := by decide
  rcases key op with h | h | h | h | h | h | ⟨h, h1, h2, h3, h4, h5, h6⟩
  all_goals first | (subst h; simp) | simp [h, h1, h2, h3, h4, h5, h6]

end Sys2Proof
end

