-- ==== Sys2Proof/Laws/State.lean ====
section
/-! SUPPORT. What each update of the state does to each field: one lemma per field per update, so that no proof unfolds a record
update. -/

namespace Sys2Proof.Machine

@[simp] theorem setStatus_status (s : State) (st : BitVec 32) : (s.setStatus st).status = st := rfl
@[simp] theorem setStatus_held (s : State) (st : BitVec 32) : (s.setStatus st).held = s.held := rfl
@[simp] theorem setStatus_inputs (s : State) (st : BitVec 32) : (s.setStatus st).inputs = s.inputs := rfl
@[simp] theorem setStatus_trace (s : State) (st : BitVec 32) : (s.setStatus st).trace = s.trace := rfl

@[simp] theorem setHeld_status (s : State) (r : Option HeldRegs) : (s.setHeld r).status = s.status := rfl
@[simp] theorem setHeld_held (s : State) (r : Option HeldRegs) : (s.setHeld r).held = r := rfl
@[simp] theorem setHeld_inputs (s : State) (r : Option HeldRegs) : (s.setHeld r).inputs = s.inputs := rfl
@[simp] theorem setHeld_trace (s : State) (r : Option HeldRegs) : (s.setHeld r).trace = s.trace := rfl

@[simp] theorem setInputs_status (s : State) (l : List Input) : (s.setInputs l).status = s.status := rfl
@[simp] theorem setInputs_held (s : State) (l : List Input) : (s.setInputs l).held = s.held := rfl
@[simp] theorem setInputs_inputs (s : State) (l : List Input) : (s.setInputs l).inputs = l := rfl
@[simp] theorem setInputs_trace (s : State) (l : List Input) : (s.setInputs l).trace = s.trace := rfl

@[simp] theorem emitEvent_status (s : State) (e : OutEvent) : (s.emitEvent e).status = s.status := rfl
@[simp] theorem emitEvent_held (s : State) (e : OutEvent) : (s.emitEvent e).held = s.held := rfl
@[simp] theorem emitEvent_inputs (s : State) (e : OutEvent) : (s.emitEvent e).inputs = s.inputs := rfl
@[simp] theorem emitEvent_trace (s : State) (e : OutEvent) : (s.emitEvent e).trace = s.trace ++ [e] := rfl

@[simp] theorem reset_status : State.reset.status = 0#32 := rfl
@[simp] theorem reset_held : State.reset.held = none := rfl
@[simp] theorem reset_inputs : State.reset.inputs = [] := rfl
@[simp] theorem reset_trace : State.reset.trace = [] := rfl

/-- Two states with equal fields are equal. -/
theorem state_eq {s t : State} (h1 : s.status = t.status) (h2 : s.held = t.held) (h3 : s.inputs = t.inputs)
    (h4 : s.trace = t.trace) : s = t := by
  cases s; cases t; simp_all

end Sys2Proof.Machine
end

