-- ==== Sys2Proof/Laws/Ops.lean ====
section
/-! SUPPORT. What each shared operation can do, said once: the fields after it, and for an operation that can answer in more than
one way, the case each answer stands for. -/

namespace Sys2Proof.Machine

@[simp] theorem respond_status (c : BitVec 4) (p : Payload) (s : State) : (respond c p s).status = s.status := rfl
@[simp] theorem respond_held (c : BitVec 4) (p : Payload) (s : State) : (respond c p s).held = s.held := rfl
@[simp] theorem respond_inputs (c : BitVec 4) (p : Payload) (s : State) : (respond c p s).inputs = s.inputs := rfl
@[simp] theorem respond_trace (c : BitVec 4) (p : Payload) (s : State) :
    (respond c p s).trace = s.trace ++ [.response (rspWord c p)] := rfl

@[simp] theorem respondOk_status (p : Payload) (s : State) : (respondOk p s).status = s.status := rfl
@[simp] theorem respondOk_held (p : Payload) (s : State) : (respondOk p s).held = s.held := rfl
@[simp] theorem respondOk_inputs (p : Payload) (s : State) : (respondOk p s).inputs = s.inputs := rfl
@[simp] theorem respondOk_trace (p : Payload) (s : State) :
    (respondOk p s).trace = s.trace ++ [.response (rspWord okCode p)] := rfl

@[simp] theorem emitChan_status (ch : BitVec 2) (d : Nat) (s : State) : (emitChan ch d s).status = s.status := rfl
@[simp] theorem emitChan_held (ch : BitVec 2) (d : Nat) (s : State) : (emitChan ch d s).held = s.held := rfl
@[simp] theorem emitChan_inputs (ch : BitVec 2) (d : Nat) (s : State) : (emitChan ch d s).inputs = s.inputs := rfl
@[simp] theorem emitChan_trace (ch : BitVec 2) (d : Nat) (s : State) :
    (emitChan ch d s).trace = s.trace ++ [.chanWrite (chanWord ch (BitVec.ofNat 16 d))] := rfl

@[simp] theorem emitTriple_status (cfg : Cfg) (d : Triple) (s : State) : (emitTriple cfg d s).status = s.status := rfl
@[simp] theorem emitTriple_held (cfg : Cfg) (d : Triple) (s : State) : (emitTriple cfg d s).held = s.held := rfl
@[simp] theorem emitTriple_inputs (cfg : Cfg) (d : Triple) (s : State) : (emitTriple cfg d s).inputs = s.inputs := rfl
@[simp] theorem emitTriple_trace (cfg : Cfg) (d : Triple) (s : State) :
    (emitTriple cfg d s).trace = s.trace ++
      [.chanWrite (chanWord 0#2 (BitVec.ofNat 16 (clampDuty cfg d.r))),
       .chanWrite (chanWord 1#2 (BitVec.ofNat 16 (clampDuty cfg d.g))),
       .chanWrite (chanWord 2#2 (BitVec.ofNat 16 (clampDuty cfg d.b)))] := by
  simp [emitTriple]

@[simp] theorem refuse_status (c : Cause) (s : State) : (refuse c s).status = setErr c s.status := rfl
@[simp] theorem refuse_held (c : Cause) (s : State) : (refuse c s).held = s.held := rfl
@[simp] theorem refuse_inputs (c : Cause) (s : State) : (refuse c s).inputs = s.inputs := rfl
@[simp] theorem refuse_trace (c : Cause) (s : State) :
    (refuse c s).trace = s.trace ++ [.response (rspWord (causeCode c) 0#48)] := rfl

@[simp] theorem resetInput_status (s : State) : (resetInput s).status = 0#32 := rfl
@[simp] theorem resetInput_held (s : State) : (resetInput s).held = none := rfl
@[simp] theorem resetInput_inputs (s : State) : (resetInput s).inputs = s.inputs := rfl
@[simp] theorem resetInput_trace (s : State) : (resetInput s).trace = s.trace := rfl

@[simp] theorem presentCommand_inputs (w : CmdWord) (s : State) :
    (presentCommand w s).inputs = .command w :: s.inputs := rfl

/-- No refusal touches `INITED`. -/
@[simp] theorem statusInited_setErr (c : Cause) (st : BitVec 32) :
    statusInited (setErr c st) = statusInited st := by
  cases c <;> simp [statusInited, setErr, errBit]

/-- `INIT` sets `INITED`. -/
@[simp] theorem statusInited_setInited (st : BitVec 32) : statusInited (setInited st) = true := by
  simp [statusInited, setInited, initedBit]

/-- A command sees values in registers 1 to 6 exactly when `INITED` is 1 and the registers hold values. -/
theorem heldRegs_eq_some {s : State} {r : HeldRegs} :
    heldRegs s = some r ↔ inited s = true ∧ s.held = some r := by
  by_cases h : inited s = true <;> simp [heldRegs, h]

/-- A command sees no value in registers 1 to 6 exactly when `INITED` is 0 or the registers hold none. -/
theorem heldRegs_eq_none {s : State} : heldRegs s = none ↔ inited s = false ∨ s.held = none := by
  by_cases h : inited s = true <;> simp [heldRegs, h]

/-- What commands see of registers 1 to 6 depends on `STATUS` and on them alone. -/
theorem heldRegs_congr {s t : State} (h1 : s.status = t.status) (h2 : s.held = t.held) :
    heldRegs s = heldRegs t := by
  unfold heldRegs inited; rw [h1, h2]

/-- A register reads as no value exactly when it is not `STATUS` and registers 1 to 6 hold none. -/
theorem readReg_eq_none {reg : RegName} {s : State} :
    readReg reg s = none ↔ reg ≠ .status ∧ heldRegs s = none := by
  cases reg <;> simp [readReg]

theorem hueInDomain_eq_some {n : Nat} {h : Fin 360} : hueInDomain n = some h ↔ n = h.val := by
  unfold hueInDomain
  split
  · simp [Fin.ext_iff]
  · have := h.isLt
    simp; omega

theorem hueInDomain_eq_none {n : Nat} : hueInDomain n = none ↔ 360 ≤ n := by
  unfold hueInDomain
  split <;> simp <;> omega

/-- A number names no register exactly from 7 on. -/
theorem regOfNumber_eq_none {n : BitVec 4} : regOfNumber n = none ↔ 7 ≤ n.toNat := by
  revert n; decide

theorem takeInput_nil {s : State} (h : s.inputs = []) : takeInput s = none := by simp [takeInput, h]

theorem takeInput_cons {s : State} {a : Input} {rest : List Input} (h : s.inputs = a :: rest) :
    takeInput s = some (a, s.setInputs rest) := by simp [takeInput, h]

/-- The clamp is the smaller of its argument and `SAFE_MAX_DUTY`. -/
theorem clampDuty_eq_min (cfg : Cfg) (x : Nat) : clampDuty cfg x = min x (safeMaxDuty cfg) := by
  unfold clampDuty; split <;> omega

/-- The registers after steps 1 to 3 of `ADVANCE`, and the hue the colour is computed from: either the hue after step 2 is
below 360 and is kept, or it is not, the hue wraps and one speed is drawn. -/
theorem tickRegs_cases (cfg : Cfg) (r : HeldRegs) :
    (∃ h : Fin 360, tickHue r = h.val ∧
      tickRegs cfg r = ({ r with stepCounter := BitVec.ofNat 8 (tickCounter r), hueStep := BitVec.ofNat 9 h.val }, h)) ∨
    (360 ≤ tickHue r ∧
      tickRegs cfg r = ({ r with
        stepCounter := BitVec.ofNat 8 (tickCounter r)
        hueStep := 0#9
        seed := nextSeed cfg r.seed
        currentSpeed := speedOf cfg (nextSeed cfg r.seed) }, 0)) := by
  cases e : hueInDomain (tickHue r) with
  | some h => exact .inl ⟨h, hueInDomain_eq_some.mp e, by simp [tickRegs, e]⟩
  | none => exact .inr ⟨hueInDomain_eq_none.mp e, by simp [tickRegs, e, nextStateSpeed]⟩

end Sys2Proof.Machine
end

