-- ==== Sys2Proof/Laws/PerInstr.lean ====
section
/-! SUPPORT. The family `EncodedOpcode`: what the word of each command has in its opcode field, one lemma per constructor of
`Instr` (spec/30_encoding.md rule R55, column `op`). -/

namespace Sys2Proof.Laws.EncodedOpcode

/-- The opcode of the row of rule R55 that a command belongs to. -/
def opcodeOf : Instr → BitVec 4
  | .init _ _ _ => 0x1#4
  | .advance => 0x2#4
  | .nextSpeed => 0x3#4
  | .convert _ _ _ => 0x4#4
  | .clamp _ => 0x5#4
  | .rdreg _ => 0x6#4

/-- The word of the command carries the opcode of its row. -/
def Statement (i : Instr) : Prop := opField (encode i) = opcodeOf i

theorem init (sat val : BitVec 8) (seed : BitVec 32) : Statement (.init sat val seed) := by
  simp [Statement, opcodeOf, opField, encode]

theorem advance : Statement .advance := by
  simp [Statement, opcodeOf, opField, encode]

theorem nextSpeed : Statement .nextSpeed := by
  simp [Statement, opcodeOf, opField, encode]

theorem convert (hue : BitVec 9) (sat val : BitVec 8) : Statement (.convert hue sat val) := by
  simp [Statement, opcodeOf, opField, encode]

theorem clamp (x : BitVec 32) : Statement (.clamp x) := by
  simp [Statement, opcodeOf, opField, encode]

theorem rdreg (n : BitVec 4) : Statement (.rdreg n) := by
  simp [Statement, opcodeOf, opField, encode]

end Sys2Proof.Laws.EncodedOpcode
end

