-- ==== Sys2Proof/Laws/Step.lean ====
section
/-! SUPPORT. What a command and a step can do, said once for each. -/

namespace Sys2Proof.Machine

/-- `exec` is the parametric machine at this hardware's configuration: every command has a next state. -/
theorem exec_eq_execIn (i : Instr) (s : State) : exec i s = .next (execIn Config.cfg i s) := by
  cases i <;> rfl

/-- `ADVANCE` is refused, or ticks the registers, emits the triple of the updated hue and answers `OK`. -/
theorem advanceIn_cases (cfg : Cfg) (s : State) :
    (heldRegs s = none ∧ advanceIn cfg s = refuse .notInit s) ∨
    (∃ r, heldRegs s = some r ∧
      advanceIn cfg s = respondOk 0#48 (emitTriple cfg (hsv2duty cfg (tickRegs cfg r).2 r.sat r.val)
        (s.setHeld (some (tickRegs cfg r).1)))) := by
  cases e : heldRegs s with
  | none => exact .inl ⟨rfl, by simp [advanceIn, e]⟩
  | some r => exact .inr ⟨r, rfl, by simp [advanceIn, e]⟩

/-- `NEXT_SPEED` is refused, or advances `SEED` and answers the speed. -/
theorem nextSpeedIn_cases (cfg : Cfg) (s : State) :
    (heldRegs s = none ∧ nextSpeedIn cfg s = refuse .notInit s) ∨
    (∃ r, heldRegs s = some r ∧
      nextSpeedIn cfg s = respondOk ((speedOf cfg (nextSeed cfg r.seed)).zeroExtend 48)
        (s.setHeld (some { r with seed := nextSeed cfg r.seed }))) := by
  cases e : heldRegs s with
  | none => exact .inl ⟨rfl, by simp [nextSpeedIn, e]⟩
  | some r => exact .inr ⟨r, rfl, by simp [nextSpeedIn, e, nextStateSpeed]⟩

/-- `CONVERT` is refused with `DOMAIN`, or answers the triple. -/
theorem convertIn_cases (cfg : Cfg) (hue : BitVec 9) (sat val : BitVec 8) (s : State) :
    (360 ≤ hue.toNat ∧ convertIn cfg hue sat val s = refuse .domain s) ∨
    (∃ h : Fin 360, hue.toNat = h.val ∧
      convertIn cfg hue sat val s = respondOk (triplePayload (hsv2duty cfg h sat val)) s) := by
  cases e : hueInDomain (operandValue hue) with
  | none => exact .inl ⟨hueInDomain_eq_none.mp e, by simp [convertIn, e]⟩
  | some h => exact .inr ⟨h, hueInDomain_eq_some.mp e, by simp [convertIn, e]⟩

/-- `RDREG` is refused with `ILLEGAL`, refused with `NOT_INIT`, or answers the register's value. -/
theorem rdregIn_cases (n : BitVec 4) (s : State) :
    (7 ≤ n.toNat ∧ rdregIn n s = refuse .illegal s) ∨
    (∃ reg, regOfNumber n = some reg ∧ readReg reg s = none ∧ rdregIn n s = refuse .notInit s) ∨
    (∃ reg v, regOfNumber n = some reg ∧ readReg reg s = some v ∧ rdregIn n s = respondOk (v.zeroExtend 48) s) := by
  cases e : regOfNumber n with
  | none => exact .inl ⟨regOfNumber_eq_none.mp e, by simp [rdregIn, e]⟩
  | some reg =>
    cases e' : readReg reg s with
    | none => exact .inr (.inl ⟨reg, rfl, e', by simp [rdregIn, e, e']⟩)
    | some v => exact .inr (.inr ⟨reg, v, rfl, e', by simp [rdregIn, e, e']⟩)

/-- One step at a configuration: idle, a reset, a legal command run, or an illegal word refused. -/
theorem stepIn_cases (cfg : Cfg) (s : State) :
    (s.inputs = [] ∧ stepIn cfg s = s) ∨
    (∃ rest, s.inputs = .reset :: rest ∧ stepIn cfg s = resetInput (s.setInputs rest)) ∨
    (∃ w rest i, s.inputs = .command w :: rest ∧ decode w = .ok i ∧ stepIn cfg s = execIn cfg i (s.setInputs rest)) ∨
    (∃ w rest e, s.inputs = .command w :: rest ∧ decode w = .error e ∧
      stepIn cfg s = refuse .illegal (s.setInputs rest)) := by
  cases h : s.inputs with
  | nil => exact .inl ⟨rfl, by simp [stepIn, takeInput_nil h]⟩
  | cons a rest =>
    cases a with
    | reset => exact .inr (.inl ⟨rest, rfl, by simp [stepIn, takeInput_cons h, acceptIn]⟩)
    | command w =>
      cases e : decode w with
      | ok i => exact .inr (.inr (.inl ⟨w, rest, i, rfl, e, by simp [stepIn, takeInput_cons h, acceptIn, e]⟩))
      | error x => exact .inr (.inr (.inr ⟨w, rest, x, rfl, e, by simp [stepIn, takeInput_cons h, acceptIn, e]⟩))

end Sys2Proof.Machine
end

