-- ==== Sys2Proof/Tests/Slice0.lean ====
section
/-! SUPPORT. Tests with expected results from the spec's worked examples and tables, and one witness per statement that has
hypotheses: concrete values that meet all of them together. -/

namespace Sys2Proof.Tests

open Sys2Proof Sys2Proof.Machine

/-- `CFG0` with the constant the spec's vectors use (spec/95_test_vectors.md). -/
def cfgA : Cfg := Config.cfg0 0xA5A5A5A5#32

/-- The smallest and the largest configuration the bounds of spec/00_scope.md section 3 admit. -/
def cfgLow : Cfg := ⟨2, 1, 1, 0, 0, 0, 0#32⟩
def cfgHigh : Cfg := ⟨65536, 255, 255, 255, 255, 255, 0xFFFFFFFF#32⟩

/-- Held registers at an operating point of 255, 220 (spec/43_cycle_state_machine.md, worked example of rule R107). -/
def regsAt (hue : BitVec 9) (counter speed : BitVec 8) : HeldRegs :=
  ⟨0xA5A5A5A7#32, hue, counter, speed, 255#8, 220#8⟩

/-- A running state with these registers and these actions of the host still to come. -/
def runningAt (hue : BitVec 9) (counter speed : BitVec 8) (inputs : List Input) : State :=
  ⟨1#32, some (regsAt hue counter speed), inputs, []⟩

/-- The state after reset with these actions of the host to come. -/
def freshWith (inputs : List Input) : State := ⟨0#32, none, inputs, []⟩

/-! ### Well-formedness: the one check, with terms it refuses -/

theorem test_wf_refuses_register_seven : (Instr.rdreg 7#4).wf = false := by decide
theorem test_wf_refuses_register_fifteen : (Instr.rdreg 15#4).wf = false := by decide
theorem test_wf_admits_register_six : (Instr.rdreg 6#4).wf = true := by decide

/-! ### Decoding: words written out field by field from the format tables of rule R51 -/

/-- Format I: op 0001, reserved 12 zeros, sat 255, val 220, seed 1. -/
theorem test_decode_init :
    decode (0b0001#4 ++ 0#12 ++ 0b11111111#8 ++ 0b11011100#8 ++ 0x00000001#32) =
      .ok (.init 255#8 220#8 1#32) := by decide

/-- Format Z: op 0010, 60 zeros. -/
theorem test_decode_advance : decode (0b0010#4 ++ 0#60) = .ok .advance := by decide

/-- Format Z: op 0011, 60 zeros. -/
theorem test_decode_next_speed : decode (0b0011#4 ++ 0#60) = .ok .nextSpeed := by decide

/-- Format H: op 0100, 35 zeros, hue 359, sat 1, val 128. -/
theorem test_decode_convert :
    decode (0b0100#4 ++ 0#35 ++ 0b101100111#9 ++ 0b00000001#8 ++ 0b10000000#8) =
      .ok (.convert 359#9 1#8 128#8) := by decide

/-- Format X: op 0101, 28 zeros, x. -/
theorem test_decode_clamp : decode (0b0101#4 ++ 0#28 ++ 0x80000001#32) = .ok (.clamp 0x80000001#32) := by decide

/-- Format N: op 0110, 56 zeros, n 6. -/
theorem test_decode_rdreg : decode (0b0110#4 ++ 0#56 ++ 0b0110#4) = .ok (.rdreg 6#4) := by decide

/-- R56 (a): op 0x0 and 0x7 to 0xF; the all-zero and the all-ones word. -/
theorem test_decode_reserved_opcodes :
    decode 0#64 = .error .reservedOpcode ∧ decode (0b0111#4 ++ 0#60) = .error .reservedOpcode ∧
    decode 0xFFFFFFFFFFFFFFFF#64 = .error .reservedOpcode := by decide

/-- R56 (b): the lowest and the highest reserved bit of each format. -/
theorem test_decode_reserved_bits :
    decode 0x1001000000000000#64 = .error .reservedBits ∧ decode 0x1800000000000000#64 = .error .reservedBits ∧
    decode 0x2000000000000001#64 = .error .reservedBits ∧ decode 0x3800000000000000#64 = .error .reservedBits ∧
    decode 0x4000000002000000#64 = .error .reservedBits ∧ decode 0x4800000000000000#64 = .error .reservedBits ∧
    decode 0x5000000100000000#64 = .error .reservedBits ∧ decode 0x5800000000000000#64 = .error .reservedBits ∧
    decode 0x6000000000000010#64 = .error .reservedBits ∧ decode 0x6800000000000000#64 = .error .reservedBits := by
  decide

/-- R56 (c). -/
theorem test_decode_reserved_register : decode 0x6000000000000007#64 = .error .reservedRegister := by decide

theorem test_table_word_advance : decodeTableWord 64 0x2000000000000000 = some .advance := by decide

theorem test_fetch_word_runs_next :
    (State.reset.withFetchWord 64 0x5000000000008000).inputs = [.command 0x5000000000008000#64] := by decide

/-! ### One command each, expected results from the spec -/

/-- Worked example of rule R107. -/
theorem test_init_worked :
    execIn cfgA (.init 255#8 220#8 1#32) (freshWith []) =
      ⟨1#32, some ⟨0xA5A5A5A7#32, 0#9, 0#8, 3#8, 255#8, 220#8⟩, [], [.response 0#64]⟩ := by decide

/-- R108 (e): a sticky bit survives `INIT`. -/
theorem test_init_keeps_sticky_bits :
    (execIn cfgA (.init 0#8 0#8 0#32) ⟨8#32, none, [], []⟩).status = 9#32 := by decide

/-- Worked example of rule R110. -/
theorem test_advance_worked :
    execIn cfgA .advance (runningAt 0#9 2#8 3#8 []) =
      ⟨1#32, some (regsAt 1#9 0#8 3#8), [],
        [.chanWrite 0x06E6E#18, .chanWrite 0x10147#18, .chanWrite 0x20000#18, .response 0#64]⟩ := by decide

/-- R111 (e), (f) and R95: the wrap shows hue 0 and draws once from `SEED`. -/
theorem test_advance_wrap :
    execIn cfgA .advance ⟨1#32, some ⟨1#32, 359#9, 4#8, 5#8, 255#8, 220#8⟩, [], []⟩ =
      ⟨1#32, some ⟨0xA5A5A5A7#32, 0#9, 0#8, 3#8, 255#8, 220#8⟩, [],
        [.chanWrite 0x06E6E#18, .chanWrite 0x10000#18, .chanWrite 0x20000#18, .response 0#64]⟩ := by decide

/-- Worked example of rule R73, with a register file around it. -/
theorem test_next_speed_worked :
    execIn cfgA .nextSpeed ⟨1#32, some ⟨1#32, 7#9, 1#8, 2#8, 9#8, 8#8⟩, [], []⟩ =
      ⟨1#32, some ⟨0xA5A5A5A7#32, 7#9, 1#8, 2#8, 9#8, 8#8⟩, [], [.response 3#64]⟩ := by decide

/-- Table of section 3 of spec/40_cadence_generator.md, row 0xDEADBEEF: the top bits return at the bottom. -/
theorem test_next_speed_top_bits :
    nextStateSpeed cfgA 0xDEADBEEF#32 = (0x18FED878#32, 5#8) := by decide

/-- R95 at hue 300: (28270, 0, 31097). -/
theorem test_convert_magenta :
    (execIn cfgA (.convert 300#9 255#8 220#8) (freshWith [])).trace = [.response 0x00006E6E00007979#64] := by decide

/-- R92 (f) of spec/41_color_converter.md: hue 359 gives (32767, 0, 706). -/
theorem test_convert_last_hue :
    hsv2duty cfgA 359 255#8 255#8 = ⟨32767, 0, 706⟩ := by decide

/-- Worked example of rule R102: `PWM_PERIOD` saturates. -/
theorem test_clamp_worked :
    (execIn cfgA (.clamp 0x8000#32) (freshWith [])).trace = [.response 0x7FFF#64] := by decide

/-- R103: 32766 is below the bound. -/
theorem test_clamp_below : (execIn cfgA (.clamp 32766#32) (freshWith [])).trace = [.response 32766#64] := by decide

/-- Worked example of rule R121: `RDREG SEED` after `INIT 255, 220, 1`. -/
theorem test_rdreg_seed :
    (execIn cfgA (.rdreg 1#4) (runningAt 0#9 0#8 3#8 [])).trace = [.response 0xA5A5A5A7#64] := by decide

/-- R122 (b): `RDREG 1` straight after reset. -/
theorem test_rdreg_before_init :
    execIn cfgA (.rdreg 1#4) (freshWith []) = ⟨8#32, none, [], [.response 0x3000000000000000#64]⟩ := by decide

/-! ### Witnesses: for each statement with hypotheses, values that meet them, at the ends of their ranges -/

theorem witness_EncodeThenDecodeReturnsTheCommand :
    (Instr.rdreg 0#4).wf = true ∧ (Instr.rdreg 6#4).wf = true ∧ (Instr.init 255#8 0#8 0xFFFFFFFF#32).wf = true ∧
    Instr.advance.wf = true ∧ Instr.nextSpeed.wf = true ∧ (Instr.convert 511#9 255#8 255#8).wf = true ∧
    (Instr.clamp 0xFFFFFFFF#32).wf = true := by decide

theorem witness_DecodeThenEncodeReturnsTheWord :
    decode 0x6000000000000006#64 = .ok (.rdreg 6#4) ∧
    decode 0x4000000001FFFFFF#64 = .ok (.convert 511#9 255#8 255#8) := by decide

theorem witness_IllegalWordsAreRefusedAndOnlyThey :
    (freshWith [.command 0#64, .reset]).inputs = .command 0#64 :: [.reset] ∧ IllegalWord 0#64 ∧
    IllegalWord 0x7000000000000000#64 ∧ IllegalWord 0x1001000000000000#64 ∧ IllegalWord 0x2000000000000001#64 ∧
    IllegalWord 0x3800000000000000#64 ∧ IllegalWord 0x4000000002000000#64 ∧ IllegalWord 0x5000000100000000#64 ∧
    IllegalWord 0x6000000000000010#64 ∧ IllegalWord 0x6000000000000007#64 ∧
    ¬ IllegalWord 0x6000000000000006#64 ∧ ¬ IllegalWord 0x4000000001FFFFFF#64 := by
  refine ⟨rfl, ?_, ?_, ?_, ?_, ?_, ?_, ?_, ?_, ?_, ?_, ?_⟩ <;> decide

theorem witness_legal_configurations :
    cfgA.InBounds ∧ cfgLow.InBounds ∧ cfgHigh.InBounds ∧ Config.cfg.InBounds := by
  refine ⟨by decide, by decide, by decide, ?_⟩
  simp [Config.cfg, Config.cfg0, Cfg.InBounds]

theorem witness_ClampIsTheMinimumWithSafeMaxDuty :
    cfgLow.InBounds ∧ 1 ≤ cfgLow.pwmPeriod - 1 ∧ cfgLow.pwmPeriod - 1 < 2 ∧
    cfgHigh.InBounds ∧ 65535 ≤ cfgHigh.pwmPeriod - 1 ∧ cfgHigh.pwmPeriod - 1 < 65536 := by decide

theorem witness_ClampIsIdempotentMonotoneAndBounded :
    cfgLow.InBounds ∧ 1 ≤ safeMaxDuty cfgLow ∧ (0 : Nat) ≤ 0 ∧ cfgLow.pwmPeriod = 2 ∧ cfgHigh.InBounds ∧
    cfgHigh.pwmPeriod = 65536 := by decide

theorem witness_DrawUpdatesTheWordAndReducesIntoTheRange :
    cfgLow.InBounds ∧ cfgLow.maxSpeed = cfgLow.minSpeed ∧ cfgA.InBounds ∧ cfgA.maxSpeed ≠ cfgA.minSpeed ∧
    2 ≤ 2 ∧ 31 ≤ 31 := by decide

theorem witness_DrawnSpeedIsWithinTheBounds : cfgA.InBounds ∧ cfgLow.InBounds ∧ cfgHigh.InBounds := by decide

theorem witness_RegionAndRemainderOfAHue :
    (59 : Fin 360).val % 60 = 59 ∧ (359 : Fin 360).val % 60 = 59 ∧ 60 ∣ (0 : Fin 360).val ∧
    60 ∣ (300 : Fin 360).val ∧ remainderOf (300 : Fin 360).val = 0 := by decide

theorem witness_SectorIntermediatesNeverExceedTheBrightness :
    (255 : Nat) ≤ 255 ∧ (0 : Nat) ≤ 255 ∧ (250 : Nat) ≤ 250 := by decide

theorem witness_SectorTableAssignsTheChannels :
    (0 : Fin 360).val ≤ 59 ∧ (59 : Fin 360).val ≤ 59 ∧
    (60 ≤ (60 : Fin 360).val ∧ (60 : Fin 360).val ≤ 119) ∧ (60 ≤ (119 : Fin 360).val ∧ (119 : Fin 360).val ≤ 119) ∧
    (120 ≤ (120 : Fin 360).val ∧ (120 : Fin 360).val ≤ 179) ∧
    (120 ≤ (179 : Fin 360).val ∧ (179 : Fin 360).val ≤ 179) ∧
    (180 ≤ (180 : Fin 360).val ∧ (180 : Fin 360).val ≤ 239) ∧
    (180 ≤ (239 : Fin 360).val ∧ (239 : Fin 360).val ≤ 239) ∧
    (240 ≤ (240 : Fin 360).val ∧ (240 : Fin 360).val ≤ 299) ∧
    (240 ≤ (299 : Fin 360).val ∧ (299 : Fin 360).val ≤ 299) ∧
    300 ≤ (300 : Fin 360).val ∧ 300 ≤ (359 : Fin 360).val := by decide

theorem witness_SectorTableAssignsTheChannels_bounds :
    (255 : Nat) ≤ 255 ∧ 360 ≤ (360#9).toNat ∧ 360 ≤ (511#9).toNat := by decide

theorem witness_ChannelIsScaledCalibratedThenClamped :
    cfgHigh.InBounds ∧ (1#8 ≠ 0#8) ∧ (255#8 ≠ 0#8) ∧ (255 : Nat) ≤ 255 := by decide

theorem witness_EveryOutputStaysBelowThePeriod : cfgLow.InBounds ∧ cfgHigh.InBounds := by decide

theorem witness_ConverterCornerCases :
    (255 : Nat) ≤ 255 ∧ 60 ∣ (0 : Fin 360).val ∧ 60 ∣ (300 : Fin 360).val := by decide

theorem witness_AdvanceBelowTheSpeedKeepsTheHue :
    (heldRegs (runningAt 0#9 0#8 2#8 []) = some (regsAt 0#9 0#8 2#8) ∧
      (0#9).toNat = (0 : Fin 360).val ∧ (0#8).toNat + 1 < (2#8).toNat) ∧
    (heldRegs (runningAt 359#9 253#8 255#8 []) = some (regsAt 359#9 253#8 255#8) ∧
      (359#9).toNat = (359 : Fin 360).val ∧ (253#8).toNat + 1 < (255#8).toNat) := by decide

theorem witness_AdvanceAtTheSpeedStepsTheHue :
    (heldRegs (runningAt 0#9 0#8 1#8 []) = some (regsAt 0#9 0#8 1#8) ∧
      (0#9).toNat + 1 = (1 : Fin 360).val ∧ (1#8).toNat ≤ (0#8).toNat + 1) ∧
    (heldRegs (runningAt 358#9 254#8 255#8 []) = some (regsAt 358#9 254#8 255#8) ∧
      (358#9).toNat + 1 = (359 : Fin 360).val ∧ (255#8).toNat ≤ (254#8).toNat + 1) := by decide

theorem witness_AdvanceAtTheLastHueWrapsAndDraws :
    heldRegs (runningAt 359#9 2#8 3#8 []) = some (regsAt 359#9 2#8 3#8) ∧
    (regsAt 359#9 2#8 3#8).hueStep = 359#9 ∧ (3#8).toNat ≤ (2#8).toNat + 1 := by decide

theorem witness_NextSpeedAdvancesOnlyTheSeed :
    heldRegs (runningAt 0#9 0#8 3#8 []) = some (regsAt 0#9 0#8 3#8) := by decide

theorem witness_ConvertInsideTheDomainAnswersTheTriple :
    (0#9).toNat = (0 : Fin 360).val ∧ (359#9).toNat = (359 : Fin 360).val := by decide

theorem witness_ConvertOutsideTheDomainIsRefused : 360 ≤ (360#9).toNat ∧ 360 ≤ (511#9).toNat := by decide

theorem witness_RdregAnswersTheRegister :
    heldRegs (runningAt 359#9 2#8 3#8 []) = some (regsAt 359#9 2#8 3#8) := by decide

theorem witness_RdregCornerCases :
    (⟨8#32, none, [], []⟩ : State).status = 8#32 ∧ 7 ≤ (7#4).toNat ∧ 7 ≤ (15#4).toNat := by decide

theorem witness_CommandsWithoutAValueAreRefused :
    State.reset.status.getLsbD 0 = false ∧ (⟨0xE#32, none, [], []⟩ : State).status.getLsbD 0 = false ∧
    (1 ≤ (1#4).toNat ∧ (1#4).toNat ≤ 6) ∧ (1 ≤ (6#4).toNat ∧ (6#4).toNat ≤ 6) := by decide

theorem regs_in_range : RegsOk cfgA (regsAt 359#9 4#8 5#8) := by decide

/-- A word of each column of the table of rule R127, before and after `INIT`. -/
theorem witness_RefusalTable :
    StateOk cfgA (freshWith [.command 0x6000000000000001#64]) ∧
    StateOk cfgA (runningAt 359#9 4#8 5#8 [.command 0x6000000000000001#64]) ∧
    NeedsInit 0x6000000000000001#64 ∧ NeedsInit 0x2000000000000000#64 ∧ ¬ NeedsInit 0x6000000000000000#64 ∧
    HueOutside 0x4000000001680000#64 ∧ ¬ HueOutside 0x4000000001670000#64 ∧
    ¬ IllegalWord 0x4000000001680000#64 ∧ ¬ IllegalWord 0x6000000000000001#64 := by
  refine ⟨⟨?_, ?_, trivial⟩, ⟨?_, ?_, regs_in_range⟩, ?_, ?_, ?_, ?_, ?_, ?_, ?_⟩ <;> decide

theorem witness_RunningCommandsSucceed :
    heldRegs (runningAt 0#9 0#8 3#8 []) = some (regsAt 0#9 0#8 3#8) ∧ (Instr.convert 359#9 0#8 0#8).wf = true ∧
    (359#9).toNat < 360 ∧ (Instr.rdreg 6#4).wf = true ∧ Instr.advance.wf = true := by decide

theorem witness_StepRunsTheDecodedCommand :
    (runningAt 0#9 2#8 3#8 [.command 0x2000000000000000#64, .reset]).inputs =
      .command 0x2000000000000000#64 :: [.reset] ∧
    decode 0x2000000000000000#64 = .ok .advance ∧ Instr.advance.wf = true := by decide

theorem witness_IdleStepAndResetInput :
    State.reset.inputs = [] ∧ (runningAt 0#9 2#8 3#8 [.reset]).inputs = .reset :: [] := by decide

theorem witness_EveryStepKeepsTheStateInvariant :
    cfgA.InBounds ∧ StateOk cfgA (runningAt 359#9 4#8 5#8 [.command 0x2000000000000000#64]) ∧
    StateOk cfgA (freshWith [.reset]) := by
  refine ⟨?_, ⟨?_, ?_, regs_in_range⟩, ⟨?_, ?_, trivial⟩⟩ <;> decide

/-- The same for the machine, whose `RNG_CONST` no proof can see. -/
theorem witness_EveryStepKeepsTheStateInvariant_machine :
    StateOk Config.cfg (runningAt 359#9 4#8 5#8 []) ∧
    step (runningAt 359#9 4#8 5#8 []) = .next (runningAt 359#9 4#8 5#8 []) :=
  ⟨⟨by decide, by decide, by simp [RegsOk, Config.cfg, Config.cfg0, runningAt, regsAt]⟩, rfl⟩

theorem witness_EveryStepKeepsThePortsLegal :
    cfgA.InBounds ∧
    TraceOk cfgA ⟨1#32, none, [], [.chanWrite 0x07FFF#18, .chanWrite 0x20000#18, .response 0x3000000000000000#64]⟩ ∧
    TraceOk cfgA State.reset := by
  refine ⟨by decide, fun e h => ?_, fun e h => by cases h⟩
  simp only [List.mem_cons, List.not_mem_nil, or_false] at h
  rcases h with rfl | rfl | rfl <;> simp only [EventOk] <;> decide

theorem witness_EveryStepKeepsThePortsLegal_machine :
    TraceOk Config.cfg (runningAt 0#9 0#8 1#8 []) ∧
    step (runningAt 0#9 0#8 1#8 []) = .next (runningAt 0#9 0#8 1#8 []) :=
  ⟨by simp [TraceOk, runningAt], rfl⟩

theorem witness_InitEstablishesTheRanges : cfgLow.InBounds ∧ cfgHigh.InBounds := by decide

theorem witness_EachCommandIsAnsweredOnceAfterItsWrites :
    ((runningAt 0#9 2#8 3#8 [.command 0x2000000000000000#64]).inputs = .command 0x2000000000000000#64 :: [] ∧
      heldRegs (runningAt 0#9 2#8 3#8 [.command 0x2000000000000000#64]) ≠ none) ∧
    ((freshWith [.command 0x2000000000000000#64]).inputs = .command 0x2000000000000000#64 :: [] ∧
      heldRegs (freshWith [.command 0x2000000000000000#64]) = none) := by decide

theorem witness_StickyBitsAreClearedOnlyByReset :
    (⟨0xF#32, none, [.command 0#64], []⟩ : State).inputs = .command 0#64 :: [] ∧
    (⟨0xF#32, none, [.command 0#64], []⟩ : State).status.getLsbD 0 = true ∧
    (⟨0xF#32, none, [.reset], []⟩ : State).inputs = .reset :: [] := by decide

/-- A state with a refusal behind it and one without, each about to take a command that is refused. -/
theorem witness_EveryStepWithoutResetKeepsStatusTellingOfRefusals :
    (∀ rest : List Input, (freshWith [.command 0#64, .reset]).inputs ≠ .reset :: rest) ∧
    StickyOk (freshWith [.command 0#64, .reset]) ∧
    (∀ rest : List Input,
      (⟨8#32, none, [.command 0#64], [.response 0x3000000000000000#64]⟩ : State).inputs ≠ .reset :: rest) ∧
    StickyOk ⟨8#32, none, [.command 0#64], [.response 0x3000000000000000#64]⟩ := by
  have marked : stickyBits 8#32 ≠ 0#3 := by decide
  have refused : codeOf 0x3000000000000000#64 ≠ okCode := by decide
  have clear : stickyBits 0#32 = 0#3 := by decide
  simp [freshWith, StickyOk, responsesOf, marked, refused, clear]

theorem witness_EveryStepWithoutResetKeepsStatusTellingOfRefusals_machine :
    (∀ rest : List Input, (freshWith []).inputs ≠ .reset :: rest) ∧ StickyOk (freshWith []) ∧
    step (freshWith []) = .next (freshWith []) := by
  have clear : stickyBits 0#32 = 0#3 := by decide
  refine ⟨?_, ?_, rfl⟩ <;> simp [freshWith, StickyOk, responsesOf, clear]

theorem witness_OnlyTheListedCommandsWriteARegister :
    heldRegs (runningAt 359#9 2#8 3#8 []) = some (regsAt 359#9 2#8 3#8) := by decide

theorem witness_InsertedRdregIsInvisible :
    (regOfNumber 0#4 = some .status ∧ readReg .status State.reset = some 0#32) ∧
    (regOfNumber 6#4 = some .val ∧ readReg .val (runningAt 0#9 0#8 3#8 []) = some 220#32) := by decide

theorem witness_RefusedCommandsLeaveLaterOnesAlone :
    .command 0x6000000000000000#64 ∉
      (runningAt 0#9 0#8 3#8 [.command 0x2000000000000000#64, .command 0x6000000000000001#64, .reset]).inputs := by
  decide

theorem witness_NoChannelWriteBeforeInit (w : CmdWord)
    (h : Input.command w ∈ [Input.command 0x2000000000000000#64, .reset, .command 0xF000000000000000#64]) :
    w.extractLsb' 60 4 ≠ 0x1#4 := by
  simp at h
  rcases h with rfl | rfl <;> decide

/-- Two states that differ in seed, counter, speed and old hue and leave the same hue; a wrap; and a draw of each speed
that the third clause speaks of. -/
theorem witness_AdvanceShowsAFunctionOfOperatingPointAndHue :
    (heldRegs (runningAt 4#9 1#8 2#8 []) = some (regsAt 4#9 1#8 2#8) ∧
      heldRegs (runningAt 5#9 0#8 3#8 []) = some (regsAt 5#9 0#8 3#8) ∧
      heldRegs (execIn cfgA .advance (runningAt 4#9 1#8 2#8 [])) = some (regsAt 5#9 0#8 2#8) ∧
      heldRegs (execIn cfgA .advance (runningAt 5#9 0#8 3#8 [])) = some (regsAt 5#9 1#8 3#8)) ∧
    heldRegs (execIn cfgA .advance (runningAt 0#9 0#8 3#8 [])) = some (regsAt 0#9 1#8 3#8) ∧
    ((nextStateSpeed cfgA 1#32).2.toNat = 3 ∧ 1 ≤ 2 ∧ 2 < 3) ∧
    ((nextStateSpeed cfgA 0#32).2.toNat = 1 ∧ 1 ≤ 359 ∧ 359 < 360) := by decide

/-- Speed 1 and speed 255, with another command to come after the revolution. -/
theorem witness_OneRevolutionReturnsToHueZeroAndDrawsOnce :
    (heldRegs (runningAt 0#9 0#8 1#8 []) = some (regsAt 0#9 0#8 1#8) ∧ (1#8).toNat = 1) ∧
    (heldRegs (runningAt 0#9 0#8 255#8 []) = some (regsAt 0#9 0#8 255#8) ∧ (255#8).toNat = 255) := by decide

theorem witness_OneRevolutionReturnsToHueZeroAndDrawsOnce_inputs (k : BitVec 8) :
    (runningAt 0#9 0#8 k (List.replicate (360 * k.toNat) (.command 0x2000000000000000#64) ++ [.reset])).inputs =
      List.replicate (360 * k.toNat) (.command 0x2000000000000000#64) ++ [.reset] ∧
    heldRegs (runningAt 0#9 0#8 k (List.replicate (360 * k.toNat) (.command 0x2000000000000000#64) ++ [.reset])) =
      some (regsAt 0#9 0#8 k) := ⟨rfl, by simp [heldRegs, inited, statusInited, runningAt]⟩

theorem witness_SpeedSequenceIsAFunctionOfTheSeedAndTheDraws :
    heldRegs (runningAt 0#9 0#8 3#8 (List.replicate 2 (.command 0x3000000000000000#64) ++ [.reset])) =
      some (regsAt 0#9 0#8 3#8) ∧
    (runningAt 0#9 0#8 3#8 (List.replicate 2 (.command 0x3000000000000000#64) ++ [.reset])).inputs =
      List.replicate 2 (.command 0x3000000000000000#64) ++ [.reset] := by decide

theorem witness_SinkHoldsTheLastTriple :
    heldRegs (runningAt 0#9 2#8 3#8 []) = some (regsAt 0#9 2#8 3#8) ∧ Instr.nextSpeed ≠ .advance ∧
    Instr.rdreg 0#4 ≠ .advance := by decide

end Sys2Proof.Tests
end

section
/-! PROOFS. The family of spec/00_scope.md: the configuration of the machine is a legal one, and the machine is the
parametric machine at that configuration. -/

namespace Sys2Proof.Machine

/-! ### The configuration -/

/-- No bound of spec/00_scope.md section 3 speaks of `RNG_CONST` (R10). -/
theorem cfg0_inBounds (rng : BitVec 32) : (Config.cfg0 rng).InBounds := by
  show 2 ≤ 32768 ∧ 32768 ≤ 65536 ∧ 1 ≤ 1 ∧ 1 ≤ 5 ∧ 5 ≤ 255 ∧ 100 ≤ 255 ∧ 85 ≤ 255 ∧ 110 ≤ 255
  decide

/-- The machine's configuration is `CFG0` at its own `RNG_CONST`, so it is legal whatever that constant is. -/
theorem cfg_inBounds : Config.cfg.InBounds := cfg0_inBounds Config.rngConst

@[simp] theorem safeMaxDuty_cfg0 (rng : BitVec 32) : safeMaxDuty (Config.cfg0 rng) = 32767 := rfl

@[simp] theorem safeMaxDuty_cfg : safeMaxDuty Config.cfg = 32767 := safeMaxDuty_cfg0 Config.rngConst

/-- Settles O6: the bounds and `SAFE_MAX_DUTY` of `CFG0` do not depend on `RNG_CONST`. -/
theorem thisHardwareHasALegalConfiguration : Obligations.ThisHardwareHasALegalConfiguration :=
  ⟨cfg_inBounds, safeMaxDuty_cfg, cfg0_inBounds⟩

/-! ### The machine at its configuration -/

/-- A legal word runs its command (`exec_eq_execIn`); an illegal one is refused without reading the configuration. -/
theorem acceptCommand_eq_acceptIn (w : CmdWord) (s : State) :
    acceptCommand w s = .next (acceptIn Config.cfg (.command w) s) := by
  cases decoded : decode w with
  | ok i => simp [acceptCommand, acceptIn, decoded, exec_eq_execIn]
  | error e => simp [acceptCommand, acceptIn, decoded]

theorem acceptInput_eq_acceptIn (a : Input) (s : State) :
    acceptInput a s = .next (acceptIn Config.cfg a s) := by
  cases a with
  | command w => exact acceptCommand_eq_acceptIn w s
  | reset => rfl

/-- A step never stops: idle, it keeps the state; else it answers what accepting the host's first action leaves. -/
theorem step_eq_stepIn (s : State) : step s = .next (stepIn Config.cfg s) := by
  cases presented : s.inputs with
  | nil => simp [step, stepIn, takeInput_nil presented]
  | cons a rest => simp [step, stepIn, takeInput_cons presented, acceptInput_eq_acceptIn]

/-- Settles O36, by cases on what the host presents and on how a command word decodes. -/
theorem stepIsTheParametricMachineAtThisConfiguration :
    Obligations.StepIsTheParametricMachineAtThisConfiguration := step_eq_stepIn

end Sys2Proof.Machine
end

section
/-! PROOFS. The family of spec/10_state.md: what a command can do to registers 1 to 6, the invariant of the state, that no step
reads the output trace, and the state after reset. -/

namespace Sys2Proof.Machine

/-! ### Registers 1 to 6 as commands see them -/

@[simp] theorem heldRegs_respondOk (p : Payload) (s : State) : heldRegs (respondOk p s) = heldRegs s := rfl

@[simp] theorem heldRegs_emitTriple (cfg : Cfg) (d : Triple) (s : State) :
    heldRegs (emitTriple cfg d s) = heldRegs s := rfl

@[simp] theorem inited_refuse (c : Cause) (s : State) : inited (refuse c s) = inited s :=
  statusInited_setErr c s.status

/-- A refusal changes neither `INITED` nor the registers. -/
@[simp] theorem heldRegs_refuse (c : Cause) (s : State) : heldRegs (refuse c s) = heldRegs s := by
  unfold heldRegs
  rw [inited_refuse, refuse_held]

/-- Whatever the state before, `INIT` leaves registers that commands see. -/
@[simp] theorem heldRegs_initIn (cfg : Cfg) (sat val : BitVec 8) (seed : BitVec 32) (s : State) :
    heldRegs (initIn cfg sat val seed s) = some (initRegs cfg sat val seed) := by
  simp [heldRegs, inited, initIn]

/-- Registers written in the running state are the ones commands see next. -/
theorem heldRegs_setHeld_of_running {s : State} {r : HeldRegs} (running : heldRegs s = some r) (r' : HeldRegs) :
    heldRegs (s.setHeld (some r')) = some r' := by
  obtain ⟨isInited, -⟩ := heldRegs_eq_some.mp running
  exact heldRegs_eq_some.mpr ⟨isInited, setHeld_held s _⟩

/-- While `INITED` is 0 no command sees a value in registers 1 to 6 (R30). -/
theorem heldRegs_of_not_inited {s : State} (notInited : s.status.getLsbD 0 = false) : heldRegs s = none :=
  heldRegs_eq_none.mpr (.inl notInited)

/-- What a command can do: it is refused, it answers `OK` and writes no register, or it is `INIT`, or it is `ADVANCE` or
`NEXT_SPEED` in the running state. -/
theorem execIn_cases (cfg : Cfg) (i : Instr) (s : State) :
    (∃ c, execIn cfg i s = refuse c s) ∨
    (∃ p, execIn cfg i s = respondOk p s) ∨
    (∃ sat val seed, i = .init sat val seed ∧ execIn cfg i s = initIn cfg sat val seed s) ∨
    (∃ r, i = .advance ∧ heldRegs s = some r ∧
      execIn cfg i s = respondOk 0#48 (emitTriple cfg (hsv2duty cfg (tickRegs cfg r).2 r.sat r.val)
        (s.setHeld (some (tickRegs cfg r).1)))) ∨
    (∃ r, i = .nextSpeed ∧ heldRegs s = some r ∧
      execIn cfg i s = respondOk ((speedOf cfg (nextSeed cfg r.seed)).zeroExtend 48)
        (s.setHeld (some { r with seed := nextSeed cfg r.seed }))) := by
  cases i with
  | init sat val seed => exact .inr (.inr (.inl ⟨sat, val, seed, rfl, rfl⟩))
  | advance =>
    rcases advanceIn_cases cfg s with ⟨-, refused⟩ | ⟨r, running, ticked⟩
    · exact .inl ⟨_, refused⟩
    · exact .inr (.inr (.inr (.inl ⟨r, rfl, running, ticked⟩)))
  | nextSpeed =>
    rcases nextSpeedIn_cases cfg s with ⟨-, refused⟩ | ⟨r, running, drawn⟩
    · exact .inl ⟨_, refused⟩
    · exact .inr (.inr (.inr (.inr ⟨r, rfl, running, drawn⟩)))
  | convert hue sat val =>
    rcases convertIn_cases cfg hue sat val s with ⟨-, refused⟩ | ⟨h, -, answered⟩
    · exact .inl ⟨_, refused⟩
    · exact .inr (.inl ⟨_, answered⟩)
  | clamp x => exact .inr (.inl ⟨_, rfl⟩)
  | rdreg n =>
    rcases rdregIn_cases n s with ⟨-, refused⟩ | ⟨_, -, -, refused⟩ | ⟨_, v, -, -, answered⟩
    · exact .inl ⟨_, refused⟩
    · exact .inl ⟨_, refused⟩
    · exact .inr (.inl ⟨_, answered⟩)

/-! ### The invariant of the state -/

/-- The draw stays within the speeds of the configuration, and so within the eight bits of its register (R76). -/
theorem speedOf_inRange {cfg : Cfg} (legal : cfg.InBounds) (seed1 : BitVec 32) :
    cfg.minSpeed ≤ (speedOf cfg seed1).toNat ∧ (speedOf cfg seed1).toNat ≤ cfg.maxSpeed := by
  obtain ⟨-, -, -, minLeMax, maxFits, -⟩ := legal
  have reduced : seed1.toNat % speedSpan cfg < speedSpan cfg := Nat.mod_lt _ (Nat.succ_pos _)
  have span : speedSpan cfg = cfg.maxSpeed - cfg.minSpeed + 1 := rfl
  have fits : (cfg.minSpeed + seed1.toNat % speedSpan cfg) % 2 ^ 8 = cfg.minSpeed + seed1.toNat % speedSpan cfg :=
    Nat.mod_eq_of_lt (by omega)
  simp only [speedOf, BitVec.toNat_ofNat, fits]
  omega

/-- Registers whose hue and counter are 0 and whose speed was drawn are in range; `INIT` and a wrap leave such ones. -/
theorem regsOk_of_drawn {cfg : Cfg} (legal : cfg.InBounds) {r : HeldRegs} {seed1 : BitVec 32} (hue : r.hueStep = 0#9)
    (counter : r.stepCounter = 0#8) (drawn : r.currentSpeed = speedOf cfg seed1) : RegsOk cfg r := by
  obtain ⟨atLeast, atMost⟩ := speedOf_inRange legal seed1
  obtain ⟨-, -, positive, -⟩ := legal
  simp only [RegsOk, hue, counter, drawn, BitVec.toNat_ofNat]
  omega

/-- The counter after a tick is below the speed, and so fits its register: it is 0 where the sum reaches the speed
(R27). -/
theorem tickCounter_lt_currentSpeed {r : HeldRegs} (inRange : r.stepCounter.toNat < r.currentSpeed.toNat) :
    tickCounter r < r.currentSpeed.toNat := by
  by_cases full : r.stepCounter.toNat + 1 ≥ r.currentSpeed.toNat
  · simp [tickCounter, counterFull, full]; omega
  · simp [tickCounter, counterFull, full]; omega

/-- The hue moves only where the counter starts again at 0 (R110). -/
theorem tickCounter_eq_zero_of_tickHue_ne {r : HeldRegs} (moved : tickHue r ≠ r.hueStep.toNat) : tickCounter r = 0 := by
  by_cases full : counterFull r = true
  · simp [tickCounter, full]
  · simp [tickHue, full] at moved

/-- `ADVANCE` keeps the ranges: below 360 the hue is kept as it is and the speed is the old one; a wrap happens only as
the hue moves, so the counter is 0 under the new speed (R111 (b), R113). -/
theorem regsOk_tickRegs {cfg : Cfg} (legal : cfg.InBounds) {r : HeldRegs} (inRange : RegsOk cfg r) :
    RegsOk cfg (tickRegs cfg r).1 := by
  obtain ⟨hueInRange, atLeast, atMost, below⟩ := inRange
  rcases tickRegs_cases cfg r with ⟨h, -, kept⟩ | ⟨wraps, wrapped⟩
  · rw [kept]
    have hueBelow := h.isLt
    have counterBelow := tickCounter_lt_currentSpeed below
    have speedFits := r.currentSpeed.isLt
    simp only [RegsOk, BitVec.toNat_ofNat]
    omega
  · rw [wrapped]
    have restarted : tickCounter r = 0 := tickCounter_eq_zero_of_tickHue_ne (by omega)
    exact regsOk_of_drawn legal (seed1 := nextSeed cfg r.seed) rfl (by simp [restarted]) rfl

/-- The reserved bits of a union are those of its parts. -/
theorem statusRead_or (x y : BitVec 32) : statusRead (x ||| y) = statusRead x ||| statusRead y :=
  BitVec.and_or_distrib_right

/-- A refusal sets none of the reserved bits. -/
theorem statusRead_setErr (c : Cause) (st : BitVec 32) : statusRead (setErr c st) = setErr c (statusRead st) := by
  have defined : statusRead (errBit c) = errBit c := by cases c <;> rfl
  rw [setErr, setErr, statusRead_or, defined]

/-- `INIT` sets none of the reserved bits. -/
theorem statusRead_setInited (st : BitVec 32) : statusRead (setInited st) = setInited (statusRead st) := by
  have defined : statusRead initedBit = initedBit := rfl
  rw [setInited, setInited, statusRead_or, defined]

/-- The invariant of a state whose registers hold values. -/
theorem stateOk_of_held {cfg : Cfg} {s : State} {r : HeldRegs} (holds : s.held = some r)
    (reserved : statusRead s.status = s.status) (isInited : inited s = true) (inRange : RegsOk cfg r) :
    StateOk cfg s := by
  simp only [StateOk, holds]
  exact ⟨reserved, isInited, inRange⟩

/-- `STATUS` 0 and no values meet the invariant under every configuration: the state that reset leaves. -/
theorem stateOk_of_cleared {cfg : Cfg} {s : State} (cleared : s.status = 0#32) (empty : s.held = none) :
    StateOk cfg s := by
  simp only [StateOk, inited, cleared, empty]
  exact ⟨rfl, rfl, trivial⟩

/-- In the running state the held registers are in range. -/
theorem regsOk_of_running {cfg : Cfg} {s : State} {r : HeldRegs} (ok : StateOk cfg s) (running : heldRegs s = some r) :
    RegsOk cfg r := by
  obtain ⟨-, holds⟩ := heldRegs_eq_some.mp running
  obtain ⟨-, -, inRange⟩ := ok
  rw [holds] at inRange
  exact inRange

theorem stateOk_setInputs {cfg : Cfg} {s : State} (ok : StateOk cfg s) (l : List Input) : StateOk cfg (s.setInputs l) := ok

theorem stateOk_respondOk {cfg : Cfg} {s : State} (ok : StateOk cfg s) (p : Payload) : StateOk cfg (respondOk p s) := ok

theorem stateOk_emitTriple {cfg : Cfg} {s : State} (ok : StateOk cfg s) (d : Triple) :
    StateOk cfg (emitTriple cfg d s) := ok

theorem stateOk_refuse {cfg : Cfg} {s : State} (ok : StateOk cfg s) (c : Cause) : StateOk cfg (refuse c s) := by
  obtain ⟨reserved, agrees, inRange⟩ := ok
  refine ⟨?_, ?_, inRange⟩
  · rw [refuse_status, statusRead_setErr, reserved]
  · rw [inited_refuse, refuse_held, agrees]

/-- In the running state registers in range may replace the old ones. -/
theorem stateOk_setHeld {cfg : Cfg} {s : State} {r r' : HeldRegs} (ok : StateOk cfg s) (running : heldRegs s = some r)
    (inRange : RegsOk cfg r') : StateOk cfg (s.setHeld (some r')) := by
  obtain ⟨reserved, -, -⟩ := ok
  obtain ⟨isInited, -⟩ := heldRegs_eq_some.mp running
  exact stateOk_of_held (setHeld_held s _) reserved isInited inRange

theorem stateOk_initIn {cfg : Cfg} (legal : cfg.InBounds) {s : State} (ok : StateOk cfg s) (sat val : BitVec 8)
    (seed : BitVec 32) : StateOk cfg (initIn cfg sat val seed s) := by
  obtain ⟨reserved, -, -⟩ := ok
  refine stateOk_of_held (r := initRegs cfg sat val seed) rfl ?_ ?_ ?_
  · simp [initIn, statusRead_setInited, reserved]
  · simp [initIn, inited]
  · exact regsOk_of_drawn legal (seed1 := nextSeed cfg seed) rfl rfl rfl

theorem execIn_keeps_stateOk {cfg : Cfg} (legal : cfg.InBounds) {s : State} (ok : StateOk cfg s) (i : Instr) :
    StateOk cfg (execIn cfg i s) := by
  rcases execIn_cases cfg i s with ⟨c, refused⟩ | ⟨p, answered⟩ | ⟨sat, val, seed, -, initialised⟩ |
    ⟨r, -, running, ticked⟩ | ⟨r, -, running, drawn⟩
  · rw [refused]
    exact stateOk_refuse ok c
  · rw [answered]
    exact stateOk_respondOk ok p
  · rw [initialised]
    exact stateOk_initIn legal ok sat val seed
  · have inRange : RegsOk cfg (tickRegs cfg r).1 := regsOk_tickRegs legal (regsOk_of_running ok running)
    rw [ticked]
    exact stateOk_respondOk (stateOk_emitTriple (stateOk_setHeld ok running inRange) _) _
  · have inRange : RegsOk cfg { r with seed := nextSeed cfg r.seed } := regsOk_of_running (r := r) ok running
    rw [drawn]
    exact stateOk_respondOk (stateOk_setHeld ok running inRange) _

theorem stepIn_keeps_stateOk {cfg : Cfg} (legal : cfg.InBounds) {s : State} (ok : StateOk cfg s) :
    StateOk cfg (stepIn cfg s) := by
  rcases stepIn_cases cfg s with ⟨-, idle⟩ | ⟨rest, -, cleared⟩ | ⟨_, rest, i, -, -, ran⟩ | ⟨_, rest, _, -, -, refused⟩
  · rwa [idle]
  · rw [cleared]
    exact stateOk_of_cleared rfl rfl
  · rw [ran]
    exact execIn_keeps_stateOk legal (stateOk_setInputs ok rest) i
  · rw [refused]
    exact stateOk_refuse (stateOk_setInputs ok rest) .illegal

/-- The state a step of the machine answers is that of the parametric machine at `Config.cfg`. -/
theorem eq_stepIn_of_step {s t : State} (stepped : step s = .next t) : t = stepIn Config.cfg s := by
  rw [step_eq_stepIn] at stepped
  exact (Host.Outcome.next.inj stepped).symm

/-- Settles O37, by cases on what the step does (`stepIn_cases`) and on what its command does (`execIn_cases`). -/
theorem everyStepKeepsTheStateInvariant : Obligations.EveryStepKeepsTheStateInvariant := by
  refine ⟨fun cfg s legal ok => stepIn_keeps_stateOk legal ok, fun s t ok stepped => ?_⟩
  rw [eq_stepIn_of_step stepped]
  exact stepIn_keeps_stateOk cfg_inBounds ok

/-! ### Who writes which register -/

/-- `ADVANCE` keeps `SAT` and `VAL`, and keeps `SEED` and `CURRENT_SPEED` unless it leaves hue 0. -/
theorem tickRegs_frame (cfg : Cfg) (r : HeldRegs) :
    (tickRegs cfg r).1.sat = r.sat ∧ (tickRegs cfg r).1.val = r.val ∧
    (((tickRegs cfg r).1.seed = r.seed ∧ (tickRegs cfg r).1.currentSpeed = r.currentSpeed) ∨
      (tickRegs cfg r).1.hueStep = 0#9) := by
  rcases tickRegs_cases cfg r with ⟨h, -, kept⟩ | ⟨-, wrapped⟩
  · rw [kept]
    exact ⟨rfl, rfl, .inl ⟨rfl, rfl⟩⟩
  · rw [wrapped]
    exact ⟨rfl, rfl, .inr rfl⟩

/-- Settles O45, by cases on what a command does (`execIn_cases`). -/
theorem onlyTheListedCommandsWriteARegister : Obligations.OnlyTheListedCommandsWriteARegister := by
  intro cfg i s r seen
  rcases execIn_cases cfg i s with ⟨c, refused⟩ | ⟨p, answered⟩ | ⟨sat, val, seed, isInit, initialised⟩ |
    ⟨r₀, isAdvance, running, ticked⟩ | ⟨r₀, isNextSpeed, running, drawn⟩
  · exact ⟨r, by rw [refused, heldRegs_refuse, seen], .inr ⟨rfl, rfl, .inr ⟨rfl, rfl⟩, .inl rfl, .inl rfl⟩⟩
  · exact ⟨r, by rw [answered, heldRegs_respondOk, seen], .inr ⟨rfl, rfl, .inr ⟨rfl, rfl⟩, .inl rfl, .inl rfl⟩⟩
  · exact ⟨initRegs cfg sat val seed, by rw [initialised, heldRegs_initIn], .inl ⟨sat, val, seed, isInit⟩⟩
  · obtain rfl : r = r₀ := Option.some.inj (seen.symm.trans running)
    obtain ⟨sameSat, sameVal, sameDraw⟩ := tickRegs_frame cfg r
    refine ⟨(tickRegs cfg r).1, ?_, .inr ⟨sameSat, sameVal, .inl isAdvance, ?_, ?_⟩⟩
    · rw [ticked, heldRegs_respondOk, heldRegs_emitTriple, heldRegs_setHeld_of_running seen]
    · exact sameDraw.imp (·.2) (⟨isAdvance, ·⟩)
    · exact sameDraw.imp (·.1) (.inr ⟨isAdvance, ·⟩)
  · obtain rfl : r = r₀ := Option.some.inj (seen.symm.trans running)
    refine ⟨{ r with seed := nextSeed cfg r.seed }, ?_,
      .inr ⟨rfl, rfl, .inr ⟨rfl, rfl⟩, .inl rfl, .inr (.inl isNextSpeed)⟩⟩
    rw [drawn, heldRegs_respondOk, heldRegs_setHeld_of_running seen]

/-! ### The output trace is never read -/

/-- The state with these events before all that have left the block. -/
def State.prependTrace (pre : List OutEvent) (s : State) : State := { s with trace := pre ++ s.trace }

theorem emitEvent_prependTrace (pre : List OutEvent) (e : OutEvent) (s : State) :
    (s.prependTrace pre).emitEvent e = (s.emitEvent e).prependTrace pre := by
  simp [State.prependTrace, State.emitEvent]

@[simp] theorem heldRegs_prependTrace (pre : List OutEvent) (s : State) :
    heldRegs (s.prependTrace pre) = heldRegs s := rfl

@[simp] theorem readReg_prependTrace (pre : List OutEvent) (reg : RegName) (s : State) :
    readReg reg (s.prependTrace pre) = readReg reg s := by
  cases reg <;> rfl

@[simp] theorem setHeld_prependTrace (pre : List OutEvent) (r : Option HeldRegs) (s : State) :
    (s.prependTrace pre).setHeld r = (s.setHeld r).prependTrace pre := rfl

@[simp] theorem setInputs_prependTrace (pre : List OutEvent) (l : List Input) (s : State) :
    (s.prependTrace pre).setInputs l = (s.setInputs l).prependTrace pre := rfl

@[simp] theorem respondOk_prependTrace (pre : List OutEvent) (p : Payload) (s : State) :
    respondOk p (s.prependTrace pre) = (respondOk p s).prependTrace pre :=
  emitEvent_prependTrace pre _ s

@[simp] theorem refuse_prependTrace (pre : List OutEvent) (c : Cause) (s : State) :
    refuse c (s.prependTrace pre) = (refuse c s).prependTrace pre :=
  emitEvent_prependTrace pre _ (s.setStatus (setErr c s.status))

@[simp] theorem emitTriple_prependTrace (pre : List OutEvent) (cfg : Cfg) (d : Triple) (s : State) :
    emitTriple cfg d (s.prependTrace pre) = (emitTriple cfg d s).prependTrace pre := by
  simp only [emitTriple, emitChan, emitEvent_prependTrace]

/-- Any trace is an empty one with its events put before it. -/
theorem withTrace_eq_prependTrace (s : State) (pre : List OutEvent) :
    { s with trace := pre } = State.prependTrace pre { s with trace := [] } := by
  simp [State.prependTrace]

/-- No command reads the trace: events put before it are still there, untouched, after the command. -/
theorem execIn_prependTrace (cfg : Cfg) (i : Instr) (pre : List OutEvent) (s : State) :
    execIn cfg i (s.prependTrace pre) = (execIn cfg i s).prependTrace pre := by
  cases i with
  | init sat val seed =>
    exact respondOk_prependTrace pre 0#48 ((s.setHeld (some (initRegs cfg sat val seed))).setStatus (setInited s.status))
  | advance =>
    cases seen : heldRegs s with
    | none => simp [execIn, advanceIn, seen]
    | some r => simp [execIn, advanceIn, seen]
  | nextSpeed =>
    cases seen : heldRegs s with
    | none => simp [execIn, nextSpeedIn, seen]
    | some r => simp [execIn, nextSpeedIn, seen]
  | convert hue sat val =>
    cases domain : hueInDomain (operandValue hue) with
    | none => simp [execIn, convertIn, domain]
    | some h => simp [execIn, convertIn, domain]
  | clamp x => exact respondOk_prependTrace pre _ s
  | rdreg n =>
    cases named : regOfNumber n with
    | none => simp [execIn, rdregIn, named]
    | some reg =>
      cases read : readReg reg s with
      | none => simp [execIn, rdregIn, named, read]
      | some v => simp [execIn, rdregIn, named, read]

theorem stepIn_prependTrace (cfg : Cfg) (pre : List OutEvent) (s : State) :
    stepIn cfg (s.prependTrace pre) = (stepIn cfg s).prependTrace pre := by
  cases presented : s.inputs with
  | nil =>
    have taken : takeInput (s.prependTrace pre) = none := takeInput_nil presented
    simp only [stepIn, taken, takeInput_nil presented]
  | cons a rest =>
    have taken : takeInput (s.prependTrace pre) = some (a, (s.setInputs rest).prependTrace pre) :=
      takeInput_cons presented
    simp only [stepIn, taken, takeInput_cons presented]
    cases a with
    | reset => rfl
    | command w =>
      cases decoded : decode w with
      | ok i => simp only [acceptIn, decoded, execIn_prependTrace]
      | error e => simp only [acceptIn, decoded, refuse_prependTrace]

/-- Settles O46: the one outcome is the step from the state with an empty trace, whose trace is the events added. -/
theorem theOutputTraceIsNeverRead : Obligations.TheOutputTraceIsNeverRead := by
  intro cfg s
  refine ⟨stepIn cfg { s with trace := [] }, (stepIn cfg { s with trace := [] }).trace, fun pre => ?_⟩
  rw [withTrace_eq_prependTrace, stepIn_prependTrace, State.prependTrace]

/-! ### Commands that need a value, while there is none -/

theorem advanceIn_of_no_value (cfg : Cfg) {s : State} (empty : heldRegs s = none) :
    advanceIn cfg s = refuse .notInit s := by
  simp [advanceIn, empty]

theorem nextSpeedIn_of_no_value (cfg : Cfg) {s : State} (empty : heldRegs s = none) :
    nextSpeedIn cfg s = refuse .notInit s := by
  simp [nextSpeedIn, empty]

/-- The numbers of registers 1 to 6 name registers other than `STATUS` (R22). -/
theorem regOfNumber_of_held_number {n : BitVec 4} (atLeastOne : 1 ≤ n.toNat) (atMostSix : n.toNat ≤ 6) :
    ∃ reg, regOfNumber n = some reg ∧ reg ≠ .status := by
  revert n; decide

theorem rdregIn_of_no_value {n : BitVec 4} {s : State} (empty : heldRegs s = none) (atLeastOne : 1 ≤ n.toNat)
    (atMostSix : n.toNat ≤ 6) : rdregIn n s = refuse .notInit s := by
  obtain ⟨reg, named, notStatus⟩ := regOfNumber_of_held_number atLeastOne atMostSix
  have unread : readReg reg s = none := readReg_eq_none.mpr ⟨notStatus, empty⟩
  simp [rdregIn, named, unread]

/-- The refusal with `NOT_INIT`, its sticky bit and its response word written out (R126, R128). -/
theorem refuse_notInit_eq (s : State) :
    refuse .notInit s = { s with
      status := s.status ||| 0x8#32
      trace := s.trace ++ [.response 0x3000000000000000#64] } := rfl

/-- Settles O30: each of these commands is refused with `NOT_INIT` where commands see no value. -/
theorem commandsWithoutAValueAreRefused : Obligations.CommandsWithoutAValueAreRefused := by
  intro s notInited
  have empty : heldRegs s = none := heldRegs_of_not_inited notInited
  simp only [exec_eq_execIn, ← refuse_notInit_eq, execIn]
  refine ⟨?_, ?_, fun n atLeastOne atMostSix => ?_⟩
  · rw [advanceIn_of_no_value _ empty]
  · rw [nextSpeedIn_of_no_value _ empty]
  · rw [rdregIn_of_no_value empty atLeastOne atMostSix]

/-! ### The state after reset -/

/-- With an empty trace there is no event to be illegal. -/
theorem traceOk_of_empty {cfg : Cfg} {s : State} (nothing : s.trace = []) : TraceOk cfg s := by
  simp [TraceOk, nothing]

/-- Settles O38. -/
theorem resetMeetsTheInvariants : Obligations.ResetMeetsTheInvariants :=
  fun _ => ⟨stateOk_of_cleared reset_status reset_held, traceOk_of_empty reset_trace⟩

/-- Clear sticky bits and an empty list of responses tell the same: no refusal. -/
theorem stickyOk_of_nothing_refused {s : State} (clear : stickyBits s.status = 0#3)
    (noResponse : responsesOf s.trace = []) :
    StickyOk s := by
  simp [StickyOk, clear, noResponse]

/-- Settles O56. -/
theorem statusTellsOfRefusalsAfterReset : Obligations.StatusTellsOfRefusalsAfterReset :=
  have clear : stickyBits State.reset.status = 0#3 := by decide
  have noResponse : responsesOf State.reset.trace = [] := rfl
  ⟨clear, noResponse, stickyOk_of_nothing_refused clear noResponse⟩

end Sys2Proof.Machine
end

section
/-! PROOFS. The family of spec/20_memory.md: what a command word adds to the output trace, that it is what the ports may
carry, and what the channel sink holds after it. -/

namespace Sys2Proof.Machine

/-! ### A step at a command word -/

/-- Settles O34: the step takes the word (`takeInput_cons`) and accepts it, and a word that decodes runs its command. -/
theorem stepRunsTheDecodedCommand : Obligations.StepRunsTheDecodedCommand := by
  intro s w rest i presented decoded _
  have taken : takeInput s = some (.command w, s.setInputs rest) := takeInput_cons presented
  simp only [step, taken, acceptInput, acceptCommand, decoded, State.setInputs]

theorem stepIn_of_command (cfg : Cfg) {s : State} {w : CmdWord} {rest : List Input}
    (presented : s.inputs = .command w :: rest) :
    stepIn cfg s = acceptIn cfg (.command w) (s.setInputs rest) := by
  simp only [stepIn, takeInput_cons presented]

/-- Format N spells `RDREG` or nothing (R51). -/
theorem decodeN_ne_advance (w : CmdWord) : decodeN w ≠ .ok .advance := by
  unfold decodeN
  split_ifs <;> simp

/-- Only a word of opcode 2 decodes to `ADVANCE`, and only if its reserved bits are clear (R51, R55). -/
theorem fields_of_decode_advance {w : CmdWord} (decoded : decode w = .ok .advance) :
    opField w = 0x2#4 ∧ reservedZ w = false := by
  rcases decode_cases w with ⟨-, isInit⟩ | ⟨opcode, isAdvance⟩ | ⟨-, isNextSpeed⟩ | ⟨-, isConvert⟩ | ⟨-, isClamp⟩ |
    ⟨-, isRdreg⟩ | ⟨-, isIllegal⟩
  · simp [isInit, unlessReserved_eq_ok] at decoded
  · obtain ⟨clear, -⟩ := unlessReserved_eq_ok.mp (isAdvance.symm.trans decoded)
    exact ⟨opcode, clear⟩
  · simp [isNextSpeed, unlessReserved_eq_ok] at decoded
  · simp [isConvert, unlessReserved_eq_ok] at decoded
  · simp [isClamp, unlessReserved_eq_ok] at decoded
  · exact absurd (isRdreg.symm.trans decoded) (decodeN_ne_advance w)
  · simp [isIllegal] at decoded

/-- `ADVANCE` has one word (R55). -/
theorem decode_eq_advance_iff {w : CmdWord} : decode w = .ok .advance ↔ w = 0x2000000000000000#64 := by
  refine ⟨fun decoded => ?_, fun isWord => by rw [isWord]; decide⟩
  obtain ⟨opcode, clear⟩ := fields_of_decode_advance decoded
  have high : w.toNat / 2 ^ 60 % 2 ^ 4 = 2 := by
    simpa [opField, Nat.shiftRight_eq_div_pow] using congrArg BitVec.toNat opcode
  have low : w.toNat % 2 ^ 60 = 0 := by
    simpa [reservedZ, BitVec.toNat_eq] using clear
  have bound := w.isLt
  apply BitVec.eq_of_toNat_eq
  simp only [BitVec.toNat_ofNat]
  omega

theorem acceptIn_advance (cfg : Cfg) (s : State) :
    acceptIn cfg (.command 0x2000000000000000#64) s = execIn cfg .advance s := by
  simp only [acceptIn, decode_eq_advance_iff.mpr rfl]

/-! ### No command touches what the host will present -/

theorem execIn_inputs (cfg : Cfg) (i : Instr) (s : State) : (execIn cfg i s).inputs = s.inputs := by
  rcases execIn_cases cfg i s with ⟨c, refused⟩ | ⟨p, answered⟩ | ⟨sat, val, seed, -, initialised⟩ |
    ⟨r, -, -, ticked⟩ | ⟨r, -, -, drawn⟩
  · rw [refused, refuse_inputs]
  · rw [answered, respondOk_inputs]
  · rw [initialised, initIn, respondOk_inputs, setStatus_inputs, setHeld_inputs]
  · rw [ticked, respondOk_inputs, emitTriple_inputs, setHeld_inputs]
  · rw [drawn, respondOk_inputs, setHeld_inputs]

theorem acceptIn_inputs (cfg : Cfg) (a : Input) (s : State) : (acceptIn cfg a s).inputs = s.inputs := by
  cases a with
  | reset => rfl
  | command w =>
    cases decoded : decode w with
    | ok i => simp only [acceptIn, decoded, execIn_inputs]
    | error e => simp only [acceptIn, decoded, refuse_inputs]

/-! ### The words that leave the block -/

@[simp] theorem chanOf_chanWord (ch : BitVec 2) (d : BitVec 16) : chanOf (chanWord ch d) = ch := by
  simp [chanOf, chanWord]

@[simp] theorem dutyOf_chanWord (ch : BitVec 2) (d : BitVec 16) : dutyOf (chanWord ch d) = d := by
  simp [dutyOf, chanWord]

@[simp] theorem codeOf_rspWord (c : BitVec 4) (p : Payload) : codeOf (rspWord c p) = c := by
  simp [codeOf, rspWord]

@[simp] theorem payloadOf_rspWord (c : BitVec 4) (p : Payload) : payloadOf (rspWord c p) = p := by
  simp [payloadOf, rspWord]

/-- Bits 59:48 of a response lie between its two fields (R57). -/
@[simp] theorem reserved_rspWord (c : BitVec 4) (p : Payload) : (rspWord c p).extractLsb' 48 12 = 0#12 := by
  simp [rspWord]

theorem eventOk_ok_response (cfg : Cfg) (p : Payload) : EventOk cfg (.response (rspWord okCode p)) := by
  simp [EventOk, okCode]

theorem eventOk_refusal (cfg : Cfg) (c : Cause) : EventOk cfg (.response (rspWord (causeCode c) 0#48)) := by
  have code : (causeCode c).toNat ≤ 3 := by cases c <;> decide
  simp [EventOk, code]

theorem eventOk_chanWrite {cfg : Cfg} {ch : BitVec 2} {d : Nat} (channel : ch.toNat ≤ 2) (duty : d ≤ safeMaxDuty cfg) :
    EventOk cfg (.chanWrite (chanWord ch (BitVec.ofNat 16 d))) := by
  have kept : d % 2 ^ 16 ≤ safeMaxDuty cfg := (Nat.mod_le d _).trans duty
  simpa [EventOk, channel] using kept

/-! ### The triple of a colour and its channel writes -/

theorem clampDuty_le (cfg : Cfg) (x : Nat) : clampDuty cfg x ≤ safeMaxDuty cfg := by
  rw [clampDuty_eq_min]
  exact min_le_right _ _

theorem clampDuty_of_le {cfg : Cfg} {x : Nat} (bounded : x ≤ safeMaxDuty cfg) : clampDuty cfg x = x := by
  rw [clampDuty_eq_min, min_eq_left bounded]

/-- The three members of a triple are duties that the sink may hold. -/
def TripleBounded (cfg : Cfg) (d : Triple) : Prop :=
  d.r ≤ safeMaxDuty cfg ∧ d.g ≤ safeMaxDuty cfg ∧ d.b ≤ safeMaxDuty cfg

/-- The clamp is the last step of the converter on both of its paths (R83, R87, R90). -/
theorem hsv2duty_bounded (cfg : Cfg) (h : Fin 360) (s v : BitVec 8) : TripleBounded cfg (hsv2duty cfg h s v) := by
  unfold hsv2duty
  split
  · exact ⟨clampDuty_le _ _, clampDuty_le _ _, clampDuty_le _ _⟩
  · exact ⟨clampDuty_le _ _, clampDuty_le _ _, clampDuty_le _ _⟩

/-- The second clamp of `ADVANCE` (R112) changes no duty that was already clamped. -/
theorem emitTriple_trace_of_bounded {cfg : Cfg} {d : Triple} (bounded : TripleBounded cfg d) (s : State) :
    (emitTriple cfg d s).trace = s.trace ++ tripleWrites d := by
  obtain ⟨red, green, blue⟩ := bounded
  rw [emitTriple_trace, clampDuty_of_le red, clampDuty_of_le green, clampDuty_of_le blue, tripleWrites]

theorem eventOk_of_mem_tripleWrites {cfg : Cfg} {d : Triple} (bounded : TripleBounded cfg d) {e : OutEvent}
    (written : e ∈ tripleWrites d) : EventOk cfg e := by
  obtain ⟨red, green, blue⟩ := bounded
  simp only [tripleWrites, List.mem_cons, List.not_mem_nil, or_false] at written
  rcases written with rfl | rfl | rfl
  · exact eventOk_chanWrite (by decide) red
  · exact eventOk_chanWrite (by decide) green
  · exact eventOk_chanWrite (by decide) blue

/-! ### What a command adds to the trace -/

/-- From `s` to `t` one legal response has left the block and nothing else. -/
def RespondsOnly (cfg : Cfg) (s t : State) : Prop :=
  ∃ rsp, EventOk cfg (.response rsp) ∧ t.trace = s.trace ++ [.response rsp]

theorem respondsOnly_refuse (cfg : Cfg) (c : Cause) (s : State) : RespondsOnly cfg s (refuse c s) :=
  ⟨_, eventOk_refusal cfg c, refuse_trace c s⟩

theorem respondsOnly_respondOk (cfg : Cfg) (p : Payload) {s t : State} (sameTrace : t.trace = s.trace) :
    RespondsOnly cfg s (respondOk p t) :=
  ⟨_, eventOk_ok_response cfg p, by rw [respondOk_trace, sameTrace]⟩

theorem execIn_advance_of_running (cfg : Cfg) {s : State} {r : HeldRegs} (running : heldRegs s = some r) :
    execIn cfg .advance s = respondOk 0#48 (emitTriple cfg (hsv2duty cfg (tickRegs cfg r).2 r.sat r.val)
      (s.setHeld (some (tickRegs cfg r).1))) := by
  simp only [execIn, advanceIn, running]

theorem execIn_advance_trace_of_running (cfg : Cfg) {s : State} {r : HeldRegs} (running : heldRegs s = some r) :
    (execIn cfg .advance s).trace = s.trace ++ tripleWrites (hsv2duty cfg (tickRegs cfg r).2 r.sat r.val) ++
      [.response (rspWord okCode 0#48)] := by
  rw [execIn_advance_of_running cfg running, respondOk_trace, emitTriple_trace_of_bounded (hsv2duty_bounded ..),
    setHeld_trace]

theorem heldRegs_advance_of_running (cfg : Cfg) {s : State} {r : HeldRegs} (running : heldRegs s = some r) :
    heldRegs (execIn cfg .advance s) = some (tickRegs cfg r).1 := by
  rw [execIn_advance_of_running cfg running, heldRegs_respondOk, heldRegs_emitTriple,
    heldRegs_setHeld_of_running running]

/-- Every command but a successful `ADVANCE` only responds (R48). -/
theorem execIn_respondsOnly (cfg : Cfg) {i : Instr} {s : State} (quiet : ¬ (i = .advance ∧ heldRegs s ≠ none)) :
    RespondsOnly cfg s (execIn cfg i s) := by
  rcases execIn_cases cfg i s with ⟨c, refused⟩ | ⟨p, answered⟩ | ⟨sat, val, seed, -, initialised⟩ |
    ⟨r, isAdvance, running, -⟩ | ⟨r, -, -, drawn⟩
  · rw [refused]
    exact respondsOnly_refuse cfg c s
  · rw [answered]
    exact respondsOnly_respondOk cfg p rfl
  · rw [initialised]
    exact respondsOnly_respondOk cfg _ rfl
  · exact absurd ⟨isAdvance, by simp [running]⟩ quiet
  · rw [drawn]
    exact respondsOnly_respondOk cfg _ rfl

/-- Every word but that of a successful `ADVANCE` only brings a response, a word that is no command included. -/
theorem acceptIn_respondsOnly (cfg : Cfg) {w : CmdWord} {s : State}
    (quiet : ¬ (w = 0x2000000000000000#64 ∧ heldRegs s ≠ none)) :
    RespondsOnly cfg s (acceptIn cfg (.command w) s) := by
  cases decoded : decode w with
  | ok i =>
    have quietCommand : ¬ (i = .advance ∧ heldRegs s ≠ none) := by
      rintro ⟨rfl, hasValue⟩
      exact quiet ⟨decode_eq_advance_iff.mp decoded, hasValue⟩
    simpa only [acceptIn, decoded] using execIn_respondsOnly cfg quietCommand
  | error e => simpa only [acceptIn, decoded] using respondsOnly_refuse cfg .illegal s

/-- A command word adds its channel writes, then one legal response: the triple of a colour if it is `ADVANCE` and the
registers hold values, else no write. -/
theorem acceptIn_command_trace_cases (cfg : Cfg) (w : CmdWord) (s : State) :
    (¬ (w = 0x2000000000000000#64 ∧ heldRegs s ≠ none) ∧ RespondsOnly cfg s (acceptIn cfg (.command w) s)) ∨
    ((w = 0x2000000000000000#64 ∧ heldRegs s ≠ none) ∧ ∃ d : Triple, TripleBounded cfg d ∧
      (acceptIn cfg (.command w) s).trace = s.trace ++ tripleWrites d ++ [.response (rspWord okCode 0#48)]) := by
  by_cases shows : w = 0x2000000000000000#64 ∧ heldRegs s ≠ none
  · obtain ⟨isAdvance, hasValue⟩ := shows
    obtain ⟨r, running⟩ := Option.ne_none_iff_exists'.mp hasValue
    refine .inr ⟨⟨isAdvance, hasValue⟩, _, hsv2duty_bounded cfg (tickRegs cfg r).2 r.sat r.val, ?_⟩
    rw [isAdvance, acceptIn_advance, execIn_advance_trace_of_running cfg running]
  · exact .inl ⟨shows, acceptIn_respondsOnly cfg shows⟩

/-! ### The ports stay legal -/

theorem traceOk_of_append {cfg : Cfg} {s t : State} {evs : List OutEvent} (ok : TraceOk cfg s)
    (grown : t.trace = s.trace ++ evs) (added : ∀ e ∈ evs, EventOk cfg e) : TraceOk cfg t := by
  intro e emitted
  rw [grown, List.mem_append] at emitted
  exact emitted.elim (ok e) (added e)

theorem acceptIn_keeps_traceOk {cfg : Cfg} {s : State} (ok : TraceOk cfg s) (a : Input) :
    TraceOk cfg (acceptIn cfg a s) := by
  cases a with
  | reset => exact ok
  | command w =>
    rcases acceptIn_command_trace_cases cfg w s with ⟨-, rsp, legal, grown⟩ | ⟨-, d, bounded, grown⟩
    · exact traceOk_of_append ok grown (by simpa using legal)
    · rw [List.append_assoc] at grown
      refine traceOk_of_append ok grown fun e added => ?_
      rcases List.mem_append.mp added with written | answered
      · exact eventOk_of_mem_tripleWrites bounded written
      · obtain rfl := List.mem_singleton.mp answered
        exact eventOk_ok_response cfg 0#48

/-- The configuration need not be legal: a duty that is cut to 16 bits only gets smaller. -/
theorem stepIn_keeps_traceOk {cfg : Cfg} {s : State} (ok : TraceOk cfg s) : TraceOk cfg (stepIn cfg s) := by
  cases presented : s.inputs with
  | nil => simpa only [stepIn, takeInput_nil presented] using ok
  | cons a rest =>
    have ready : TraceOk cfg (s.setInputs rest) := ok
    simpa only [stepIn, takeInput_cons presented] using acceptIn_keeps_traceOk ready a

/-- Settles O39, by cases on what the host presents and on what a command word adds (`acceptIn_command_trace_cases`). -/
theorem everyStepKeepsThePortsLegal : Obligations.EveryStepKeepsThePortsLegal := by
  refine ⟨fun cfg s _ ok => stepIn_keeps_traceOk ok, fun s t ok stepped => ?_⟩
  rw [eq_stepIn_of_step stepped]
  exact stepIn_keeps_traceOk ok

/-! ### One response after the writes -/

/-- Settles O41, by the two cases of `acceptIn_command_trace_cases`. -/
theorem eachCommandIsAnsweredOnceAfterItsWrites : Obligations.EachCommandIsAnsweredOnceAfterItsWrites := by
  intro cfg s w rest presented
  have consumed : (acceptIn cfg (.command w) (s.setInputs rest)).inputs = rest := acceptIn_inputs ..
  rw [stepIn_of_command cfg presented]
  rcases acceptIn_command_trace_cases cfg w (s.setInputs rest) with ⟨quiet, rsp, -, grown⟩ |
    ⟨shows, d, ⟨red, green, blue⟩, grown⟩
  · exact ⟨[], rsp, by simpa using grown, consumed, fun shows => absurd shows quiet, fun _ => rfl⟩
  · exact ⟨tripleWrites d, _, grown, consumed, fun _ => ⟨d, red, green, blue, rfl⟩, fun quiet => absurd shows quiet⟩

/-! ### What the sink holds -/

@[simp] theorem sinkDuty_append_response (ch : BitVec 2) (l : List OutEvent) (w : RspWord) :
    sinkDuty ch (l ++ [.response w]) = sinkDuty ch l := by
  simp [sinkDuty]

/-- A write replaces what the sink held for its channel and leaves the other channels alone (R47). -/
theorem sinkDuty_append_chanWrite (ch : BitVec 2) (l : List OutEvent) (w : ChanWord) :
    sinkDuty ch (l ++ [.chanWrite w]) = if chanOf w = ch then some (dutyOf w) else sinkDuty ch l := by
  simp [sinkDuty]

/-- The three writes of a triple reach three different channels, so none replaces another. -/
theorem sinkDuty_append_tripleWrites (l : List OutEvent) (d : Triple) :
    sinkDuty 0#2 (l ++ tripleWrites d) = some (BitVec.ofNat 16 d.r) ∧
    sinkDuty 1#2 (l ++ tripleWrites d) = some (BitVec.ofNat 16 d.g) ∧
    sinkDuty 2#2 (l ++ tripleWrites d) = some (BitVec.ofNat 16 d.b) := by
  have oneByOne : l ++ tripleWrites d =
      l ++ [.chanWrite (chanWord 0#2 (BitVec.ofNat 16 d.r))] ++ [.chanWrite (chanWord 1#2 (BitVec.ofNat 16 d.g))] ++
        [.chanWrite (chanWord 2#2 (BitVec.ofNat 16 d.b))] := by
    simp [tripleWrites]
  simp only [oneByOne, sinkDuty_append_chanWrite, chanOf_chanWord, dutyOf_chanWord]
  simp

/-- `ADVANCE` computes its colour from the hue it leaves, on a wrap too (R110). -/
theorem tickRegs_hueStep (cfg : Cfg) (r : HeldRegs) : (tickRegs cfg r).1.hueStep.toNat = (tickRegs cfg r).2.val := by
  rcases tickRegs_cases cfg r with ⟨h, -, kept⟩ | ⟨-, wrapped⟩
  · have inRange := h.isLt
    rw [kept]
    exact Nat.mod_eq_of_lt (by omega)
  · rw [wrapped]
    rfl

/-- Settles O53: the response that ends an `ADVANCE` leaves the sink with its triple, and every other command only
responds. -/
theorem sinkHoldsTheLastTriple : Obligations.SinkHoldsTheLastTriple := by
  constructor
  · intro cfg s r running
    refine ⟨(tickRegs cfg r).1, (tickRegs cfg r).2, heldRegs_advance_of_running cfg running, tickRegs_hueStep cfg r, ?_⟩
    simp only [execIn_advance_trace_of_running cfg running, sinkDuty_append_response]
    exact sinkDuty_append_tripleWrites s.trace _
  · intro cfg i s ch notAdvance
    obtain ⟨rsp, -, grown⟩ : RespondsOnly cfg s (execIn cfg i s) :=
      execIn_respondsOnly cfg fun ⟨isAdvance, _⟩ => notAdvance isAdvance
    rw [grown, sinkDuty_append_response]

end Sys2Proof.Machine
end

section
/-! PROOFS. The family of spec/30_encoding.md: which fields a word has when it spells a command, that encoding and decoding
are inverse to each other, the match and mask columns of the opcode map, and the words that are no command. -/

namespace Sys2Proof

/-! ### A word is the union of its fields -/

/-- The low bits of a word, cut in two: what lies above the cut and what lies below it. -/
theorem place_extract_split (w : CmdWord) (low high : Nat) :
    place 64 (w.extractLsb' 0 (low + high)) 0 =
      place 64 (w.extractLsb' low high) low ||| place 64 (w.extractLsb' 0 low) 0 := by
  apply BitVec.eq_of_getLsbD_eq
  intro k inWord
  simp only [getLsbD_place, BitVec.getLsbD_or, BitVec.getLsbD_extractLsb']
  by_cases below : k < low
  · have notAbove : ¬ low ≤ k := by omega
    have inBoth : k < low + high := by omega
    simp [inWord, below, notAbove, inBoth]
  · have above : low ≤ k := by omega
    have sameLength : k < low + high ↔ k - low < high := by omega
    simp [inWord, below, above, sameLength]

theorem place_extract_whole (w : CmdWord) : place 64 (w.extractLsb' 0 64) 0 = w := by
  simp [place]

/-- With clear reserved bits, a word is its opcode and what lies below the reserved bits (R51). -/
theorem eq_opcode_or_operands {w : CmdWord} {op : BitVec 4} {lo len : Nat} (fits : lo + len = 60)
    (opcode : opField w = op) (clear : w.extractLsb' lo len = 0#len) :
    w = place 64 op 60 ||| place 64 (w.extractLsb' 0 lo) 0 := by
  have belowOpcode : place 64 (w.extractLsb' 0 60) 0 = place 64 (w.extractLsb' 0 lo) 0 := by
    rw [← fits, place_extract_split, clear]
    simp [place]
  calc w = place 64 (w.extractLsb' 0 (60 + 4)) 0 := (place_extract_whole w).symm
    _ = place 64 (opField w) 60 ||| place 64 (w.extractLsb' 0 60) 0 := place_extract_split w 60 4
    _ = place 64 op 60 ||| place 64 (w.extractLsb' 0 lo) 0 := by rw [opcode, belowOpcode]

/-! ### The reserved bits -/

theorem reservedZ_eq_false {w : CmdWord} : reservedZ w = false ↔ w.extractLsb' 0 60 = 0#60 := by simp [reservedZ]
theorem reservedI_eq_false {w : CmdWord} : reservedI w = false ↔ w.extractLsb' 48 12 = 0#12 := by simp [reservedI]
theorem reservedH_eq_false {w : CmdWord} : reservedH w = false ↔ w.extractLsb' 25 35 = 0#35 := by simp [reservedH]
theorem reservedX_eq_false {w : CmdWord} : reservedX w = false ↔ w.extractLsb' 32 28 = 0#28 := by simp [reservedX]
theorem reservedN_eq_false {w : CmdWord} : reservedN w = false ↔ w.extractLsb' 4 56 = 0#56 := by simp [reservedN]

/-! ### Which command a word spells, field by field -/

/-- The word has the opcode of the command's row, clear reserved bits in the row's format, and the command's operands in
their fields; a register number is below 7 (R51, R55, R56). `decode_eq_ok_iff_spells` ties it to the decoder. -/
def Spells (w : CmdWord) : Instr → Prop
  | .init sat val seed => opField w = 0x1#4 ∧ reservedI w = false ∧
      w.extractLsb' 40 8 = sat ∧ w.extractLsb' 32 8 = val ∧ w.extractLsb' 0 32 = seed
  | .advance => opField w = 0x2#4 ∧ reservedZ w = false
  | .nextSpeed => opField w = 0x3#4 ∧ reservedZ w = false
  | .convert hue sat val => opField w = 0x4#4 ∧ reservedH w = false ∧
      w.extractLsb' 16 9 = hue ∧ w.extractLsb' 8 8 = sat ∧ w.extractLsb' 0 8 = val
  | .clamp x => opField w = 0x5#4 ∧ reservedX w = false ∧ w.extractLsb' 0 32 = x
  | .rdreg n => opField w = 0x6#4 ∧ reservedN w = false ∧ n.toNat < 7 ∧ w.extractLsb' 0 4 = n

theorem decodeN_eq_ok {w : CmdWord} {i : Instr} :
    decodeN w = .ok i ↔
      reservedN w = false ∧ (w.extractLsb' 0 4).toNat < 7 ∧ .rdreg (w.extractLsb' 0 4) = i := by
  unfold decodeN
  generalize w.extractLsb' 0 4 = n
  split_ifs with reserved noRegister
  · simp [reserved]
  · simp [noRegister]
  · simp [reserved, Nat.lt_of_not_le noRegister]

theorem spells_of_decode {w : CmdWord} {i : Instr} (decoded : decode w = .ok i) : Spells w i := by
  rcases decode_cases w with ⟨opcode, answer⟩ | ⟨opcode, answer⟩ | ⟨opcode, answer⟩ | ⟨opcode, answer⟩ |
    ⟨opcode, answer⟩ | ⟨opcode, answer⟩ | ⟨-, answer⟩ <;> rw [answer] at decoded
  · obtain ⟨clear, rfl⟩ := unlessReserved_eq_ok.mp decoded
    exact ⟨opcode, clear, rfl, rfl, rfl⟩
  · obtain ⟨clear, rfl⟩ := unlessReserved_eq_ok.mp decoded
    exact ⟨opcode, clear⟩
  · obtain ⟨clear, rfl⟩ := unlessReserved_eq_ok.mp decoded
    exact ⟨opcode, clear⟩
  · obtain ⟨clear, rfl⟩ := unlessReserved_eq_ok.mp decoded
    exact ⟨opcode, clear, rfl, rfl, rfl⟩
  · obtain ⟨clear, rfl⟩ := unlessReserved_eq_ok.mp decoded
    exact ⟨opcode, clear, rfl⟩
  · obtain ⟨clear, register, rfl⟩ := decodeN_eq_ok.mp decoded
    exact ⟨opcode, clear, register, rfl⟩
  · exact nomatch decoded

theorem decode_of_spells {w : CmdWord} {i : Instr} (spelt : Spells w i) : decode w = .ok i := by
  cases i with
  | init sat val seed =>
    obtain ⟨opcode, clear, rfl, rfl, rfl⟩ := spelt
    simp [decode, opcode, clear, unlessReserved]
  | advance =>
    obtain ⟨opcode, clear⟩ := spelt
    simp [decode, opcode, clear, unlessReserved]
  | nextSpeed =>
    obtain ⟨opcode, clear⟩ := spelt
    simp [decode, opcode, clear, unlessReserved]
  | convert hue sat val =>
    obtain ⟨opcode, clear, rfl, rfl, rfl⟩ := spelt
    simp [decode, opcode, clear, unlessReserved]
  | clamp x =>
    obtain ⟨opcode, clear, rfl⟩ := spelt
    simp [decode, opcode, clear, unlessReserved]
  | rdreg n =>
    obtain ⟨opcode, clear, register, rfl⟩ := spelt
    simpa [decode, opcode] using decodeN_eq_ok.mpr ⟨clear, register, rfl⟩

theorem decode_eq_ok_iff_spells {w : CmdWord} {i : Instr} : decode w = .ok i ↔ Spells w i :=
  ⟨spells_of_decode, decode_of_spells⟩

/-! ### Encoding and decoding are inverse to each other -/

/-- No field of a command's word overlaps another, and none reaches into the reserved bits. -/
theorem spells_encode {i : Instr} (legal : i.wf = true) : Spells (encode i) i := by
  cases i with
  | init sat val seed => simp [Spells, encode, opField, reservedI_eq_false]
  | advance => simp [Spells, encode, opField, reservedZ_eq_false]
  | nextSpeed => simp [Spells, encode, opField, reservedZ_eq_false]
  | convert hue sat val => simp [Spells, encode, opField, reservedH_eq_false]
  | clamp x => simp [Spells, encode, opField, reservedX_eq_false]
  | rdreg n =>
    have register : n.toNat < 7 := of_decide_eq_true legal
    simp [Spells, encode, opField, reservedN_eq_false, register]

/-- Opcode, reserved bits and operands of a format are the whole word. -/
theorem encode_of_spells {w : CmdWord} {i : Instr} (spelt : Spells w i) : encode i = w := by
  symm
  cases i with
  | init sat val seed =>
    obtain ⟨opcode, clear, rfl, rfl, rfl⟩ := spelt
    calc w = place 64 0x1#4 60 ||| place 64 (w.extractLsb' 0 (40 + 8)) 0 :=
          eq_opcode_or_operands rfl opcode (reservedI_eq_false.mp clear)
      _ = place 64 0x1#4 60 ||| (place 64 (w.extractLsb' 40 8) 40 ||| place 64 (w.extractLsb' 0 (32 + 8)) 0) := by
          rw [place_extract_split w 40 8]
      _ = encode (.init (w.extractLsb' 40 8) (w.extractLsb' 32 8) (w.extractLsb' 0 32)) := by
          rw [place_extract_split w 32 8, encode, BitVec.or_assoc, BitVec.or_assoc]
  | advance =>
    obtain ⟨opcode, clear⟩ := spelt
    simpa [place, encode] using eq_opcode_or_operands rfl opcode (reservedZ_eq_false.mp clear)
  | nextSpeed =>
    obtain ⟨opcode, clear⟩ := spelt
    simpa [place, encode] using eq_opcode_or_operands rfl opcode (reservedZ_eq_false.mp clear)
  | convert hue sat val =>
    obtain ⟨opcode, clear, rfl, rfl, rfl⟩ := spelt
    calc w = place 64 0x4#4 60 ||| place 64 (w.extractLsb' 0 (16 + 9)) 0 :=
          eq_opcode_or_operands rfl opcode (reservedH_eq_false.mp clear)
      _ = place 64 0x4#4 60 ||| (place 64 (w.extractLsb' 16 9) 16 ||| place 64 (w.extractLsb' 0 (8 + 8)) 0) := by
          rw [place_extract_split w 16 9]
      _ = encode (.convert (w.extractLsb' 16 9) (w.extractLsb' 8 8) (w.extractLsb' 0 8)) := by
          rw [place_extract_split w 8 8, encode, BitVec.or_assoc, BitVec.or_assoc]
  | clamp x =>
    obtain ⟨opcode, clear, rfl⟩ := spelt
    exact eq_opcode_or_operands rfl opcode (reservedX_eq_false.mp clear)
  | rdreg n =>
    obtain ⟨opcode, clear, -, rfl⟩ := spelt
    exact eq_opcode_or_operands rfl opcode (reservedN_eq_false.mp clear)

theorem wf_of_spells {w : CmdWord} {i : Instr} (spelt : Spells w i) : i.wf = true := by
  cases i with
  | rdreg n =>
    obtain ⟨-, -, register, -⟩ := spelt
    exact decide_eq_true register
  | init | advance | nextSpeed | convert | clamp => rfl

/-- Settles O1: the word of a well-formed command spells it (`spells_encode`), and the decoder reads what a word spells. -/
theorem encodeThenDecodeReturnsTheCommand : Obligations.EncodeThenDecodeReturnsTheCommand :=
  fun _ legal => decode_of_spells (spells_encode legal)

/-- Settles O2: a word that decodes spells its command, and the fields it spells are the whole word
(`encode_of_spells`). -/
theorem decodeThenEncodeReturnsTheWord : Obligations.DecodeThenEncodeReturnsTheWord :=
  fun _ _ decoded =>
    have spelt := spells_of_decode decoded
    ⟨encode_of_spells spelt, wf_of_spells spelt⟩

/-! ### The match and mask columns -/

theorem extract_and_mask_above (w : CmdWord) {lo start len : Nat} (above : lo ≤ start) (inWord : start + len ≤ 64) :
    (w &&& (BitVec.allOnes 64 <<< lo)).extractLsb' start len = w.extractLsb' start len := by
  apply BitVec.eq_of_getLsbD_eq
  intro k inField
  have bitInWord : start + k < 64 := by omega
  have bitAbove : ¬ start + k < lo := by omega
  have bitInMask : start + k - lo < 64 := by omega
  simp only [BitVec.getLsbD_extractLsb', BitVec.getLsbD_and, BitVec.getLsbD_shiftLeft, BitVec.getLsbD_allOnes]
  simp [bitInWord, bitAbove, bitInMask]

theorem extract_and_mask_below (w : CmdWord) (lo : Nat) :
    (w &&& (BitVec.allOnes 64 <<< lo)).extractLsb' 0 lo = 0#lo := by
  apply BitVec.eq_of_getLsbD_eq
  intro k below
  simp [below]

/-- Every mask of the opcode map keeps the bits from the first reserved bit upward, and every match is the row's opcode
alone: the word and the mask give the match exactly when the opcode is the row's and the reserved bits are clear (R55). -/
theorem fields_iff_mask_eq_match {w mask mtch : CmdWord} {op : BitVec 4} {lo len : Nat} (fits : lo + len = 60)
    (maskBits : mask = BitVec.allOnes 64 <<< lo) (matchBits : mtch = place 64 op 60) :
    opField w = op ∧ w.extractLsb' lo len = 0#len ↔ w &&& mask = mtch := by
  have keepsOpcode : opField (w &&& mask) = opField w :=
    maskBits ▸ extract_and_mask_above w (by omega) (by omega)
  have keepsReserved : (w &&& mask).extractLsb' lo len = w.extractLsb' lo len :=
    maskBits ▸ extract_and_mask_above w le_rfl (by omega)
  constructor
  · rintro ⟨opcode, clear⟩
    calc w &&& mask = place 64 op 60 ||| place 64 ((w &&& mask).extractLsb' 0 lo) 0 :=
          eq_opcode_or_operands fits (keepsOpcode.trans opcode) (keepsReserved.trans clear)
      _ = place 64 op 60 := by rw [maskBits, extract_and_mask_below]; simp [place]
      _ = mtch := matchBits.symm
  · intro isMatch
    rw [← keepsOpcode, ← keepsReserved, isMatch, matchBits]
    exact ⟨extract_place_same op (by omega), extract_place_below op (by omega)⟩

/-- Settles O3: each row is selected by its opcode and its reserved bits (`fields_iff_mask_eq_match`), whatever the operands
are. -/
theorem decoderFollowsTheMatchAndMaskColumns : Obligations.DecoderFollowsTheMatchAndMaskColumns := by
  intro w
  simp only [decode_eq_ok_iff_spells]
  refine ⟨?_, ?_, ?_, ?_, ?_, ?_⟩
  · refine .trans ?_ (fields_iff_mask_eq_match (op := 0x1#4) (lo := 48) (len := 12) rfl rfl rfl)
    simp [Spells, reservedI_eq_false]
  · refine .trans ?_ (fields_iff_mask_eq_match (op := 0x2#4) (lo := 0) (len := 60) rfl rfl rfl)
    simp [Spells, reservedZ_eq_false]
  · refine .trans ?_ (fields_iff_mask_eq_match (op := 0x3#4) (lo := 0) (len := 60) rfl rfl rfl)
    simp [Spells, reservedZ_eq_false]
  · refine .trans ?_ (fields_iff_mask_eq_match (op := 0x4#4) (lo := 25) (len := 35) rfl rfl rfl)
    simp [Spells, reservedH_eq_false]
  · refine .trans ?_ (fields_iff_mask_eq_match (op := 0x5#4) (lo := 32) (len := 28) rfl rfl rfl)
    simp [Spells, reservedX_eq_false]
  · refine .trans ?_ (and_congr_left' (fields_iff_mask_eq_match (op := 0x6#4) (lo := 4) (len := 56) rfl rfl rfl))
    simp [Spells, reservedN_eq_false, and_assoc]

/-! ### The words that are no command -/

theorem unlessReserved_isError {reserved : Bool} {i : Instr} :
    (∃ e, unlessReserved reserved i = .error e) ↔ reserved = true := by
  cases reserved <;> simp [unlessReserved]

theorem decodeN_isError {w : CmdWord} :
    (∃ e, decodeN w = .error e) ↔ reservedN w = true ∨ 7 ≤ (w.extractLsb' 0 4).toNat := by
  unfold decodeN
  generalize w.extractLsb' 0 4 = n
  split_ifs with reserved noRegister
  · simp [reserved]
  · simp [noRegister]
  · simp [reserved, Nat.lt_of_not_le noRegister]

/-- The rejected words, opcode by opcode (R56). -/
theorem decode_isError_iff (w : CmdWord) : (∃ e, decode w = .error e) ↔ Machine.IllegalWord w := by
  rcases decode_cases w with ⟨opcode, answer⟩ | ⟨opcode, answer⟩ | ⟨opcode, answer⟩ | ⟨opcode, answer⟩ |
    ⟨opcode, answer⟩ | ⟨opcode, answer⟩ | ⟨opcode, answer⟩ <;> rw [answer] <;> simp only [opField] at opcode
  · simp [unlessReserved_isError, reservedI, Machine.IllegalWord, opcode]
  · simp [unlessReserved_isError, reservedZ, Machine.IllegalWord, opcode]
  · simp [unlessReserved_isError, reservedZ, Machine.IllegalWord, opcode]
  · simp [unlessReserved_isError, reservedH, Machine.IllegalWord, opcode]
  · simp [unlessReserved_isError, reservedX, Machine.IllegalWord, opcode]
  · rw [decodeN_isError]
    simp [reservedN, Machine.IllegalWord, opcode]
  · exact iff_of_true ⟨_, rfl⟩ (opcode.elim .inl fun above => .inr (.inl above))

/-- Settles O5: the decoder evaluated on the ten words. -/
theorem sampleWordsDecode : Obligations.SampleWordsDecode := by
  unfold Obligations.SampleWordsDecode
  decide

end Sys2Proof

namespace Sys2Proof.Machine

/-- The refusal with `ILLEGAL`, its sticky bit and its response word written out (R126, R128). -/
theorem refuse_illegal_eq (s : State) :
    refuse .illegal s = { s with
      status := s.status ||| 0x2#32
      trace := s.trace ++ [.response 0x1000000000000000#64] } := rfl

theorem acceptIn_of_illegal (cfg : Cfg) {w : CmdWord} (illegal : IllegalWord w) (s : State) :
    acceptIn cfg (.command w) s = refuse .illegal s := by
  obtain ⟨e, rejected⟩ := (decode_isError_iff w).mpr illegal
  simp only [acceptIn, rejected]

/-- Settles O4: the decoder rejects the illegal words and no other (`decode_isError_iff`), a rejected word meets the
refusal action, and every word is answered (O41). -/
theorem illegalWordsAreRefusedAndOnlyThey : Obligations.IllegalWordsAreRefusedAndOnlyThey := by
  refine ⟨decode_isError_iff, fun s w rest presented illegal => ?_, by decide, by decide, fun s w rest presented => ?_⟩
  · rw [step_eq_stepIn, stepIn_of_command _ presented, acceptIn_of_illegal _ illegal, refuse_illegal_eq]
    rfl
  · obtain ⟨evs, rsp, answered, -⟩ := eachCommandIsAnsweredOnceAfterItsWrites Config.cfg s w rest presented
    exact ⟨_, evs, rsp, step_eq_stepIn s, answered⟩

end Sys2Proof.Machine
end

section
/-! PROOFS. The family of spec/40_cadence_generator.md: the updated word and the speed drawn from it, the corner cases, and
what `NEXT_SPEED` does once and many times. -/

namespace Sys2Proof.Machine

/-! ### The updated word -/

/-- The left shift of rule R72 doubles the word and loses bit 31. -/
theorem shiftLeft_one_eq_ofNat (seed : BitVec 32) : seed <<< 1 = BitVec.ofNat 32 (seed.toNat * 2 % 2 ^ 32) := by
  apply BitVec.eq_of_toNat_eq
  simp [Nat.shiftLeft_eq]

/-- The right shift of rule R72 is logical: it divides the unsigned word. -/
theorem shiftRight_thirty_eq_ofNat (seed : BitVec 32) : seed >>> 30 = BitVec.ofNat 32 (seed.toNat / 2 ^ 30) := by
  have unsigned : seed.toNat < 2 ^ 32 := seed.isLt
  apply BitVec.eq_of_toNat_eq
  rw [BitVec.toNat_ushiftRight, BitVec.toNat_ofNat, Nat.shiftRight_eq_div_pow, Nat.mod_eq_of_lt (by omega)]

/-- What the two shifts make of the word does not depend on `RNG_CONST`. -/
theorem nextSeed_xor_rngConst (cfg : Cfg) (seed : BitVec 32) :
    nextSeed cfg seed ^^^ cfg.rngConst = seed <<< 1 ^^^ seed >>> 30 := by
  rw [nextSeed, BitVec.xor_assoc, BitVec.xor_self, BitVec.xor_zero]

/-- Before `RNG_CONST` is combined in, bit `k` of the updated word is bit `k - 1` of the old one, with bits 31 and 30 folded back
into bits 1 and 0 (R72). -/
theorem getLsbD_nextSeed_xor_rngConst (cfg : Cfg) (seed : BitVec 32) {k : Nat} (inWord : k < 32) :
    (nextSeed cfg seed ^^^ cfg.rngConst).getLsbD k =
      ((decide (1 ≤ k) && seed.getLsbD (k - 1)) ^^ seed.getLsbD (30 + k)) := by
  rw [nextSeed_xor_rngConst, BitVec.getLsbD_xor, BitVec.getLsbD_shiftLeft, BitVec.getLsbD_ushiftRight]
  cases k with
  | zero => simp
  | succ k => simp [inWord]

/-! ### The speed drawn -/

/-- The sum of rule R72 fits the eight bits of the speed, so nothing of it is lost. -/
theorem speedOf_toNat {cfg : Cfg} (legal : cfg.InBounds) (seed1 : BitVec 32) :
    (speedOf cfg seed1).toNat = cfg.minSpeed + seed1.toNat % speedSpan cfg := by
  obtain ⟨-, -, -, minLeMax, maxFits, -⟩ := legal
  have reduced : seed1.toNat % speedSpan cfg < cfg.maxSpeed - cfg.minSpeed + 1 := Nat.mod_lt _ (Nat.succ_pos _)
  rw [speedOf, BitVec.toNat_ofNat, Nat.mod_eq_of_lt (by omega)]

/-- With a span of 1 every word reduces to 0. -/
theorem speedOf_toNat_of_single {cfg : Cfg} (legal : cfg.InBounds) (single : cfg.maxSpeed = cfg.minSpeed)
    (seed1 : BitVec 32) : (speedOf cfg seed1).toNat = cfg.minSpeed := by
  have span : speedSpan cfg = 1 := by simp [speedSpan, single]
  rw [speedOf_toNat legal, span, Nat.mod_one, Nat.add_zero]

/-- Settles O9: the two shifts by value, the speed as an unsigned reduction (`speedOf_toNat`), and the bits of the word by
the three cases of `getLsbD_nextSeed_xor_rngConst`. -/
theorem drawUpdatesTheWordAndReducesIntoTheRange : Obligations.DrawUpdatesTheWordAndReducesIntoTheRange := by
  intro cfg seed legal
  simp only [nextStateSpeed]
  refine ⟨?value, Nat.succ_pos _, speedOf_toNat legal _, fun single => speedOf_toNat_of_single legal single _,
    fun k low high => ?bit, ?bitOne, ?bitZero⟩
  case value => rw [nextSeed, shiftLeft_one_eq_ofNat, shiftRight_thirty_eq_ofNat]
  case bit =>
    have above : seed.getLsbD (30 + k) = false := BitVec.getLsbD_of_ge _ _ (by omega)
    have positive : 1 ≤ k := by omega
    rw [getLsbD_nextSeed_xor_rngConst cfg seed (by omega), above]
    simp [positive]
  case bitOne =>
    rw [getLsbD_nextSeed_xor_rngConst cfg seed (by decide)]
    simp
  case bitZero =>
    rw [getLsbD_nextSeed_xor_rngConst cfg seed (by decide)]
    simp

/-- Settles O10: the speed of a draw is that of its updated word (`speedOf_inRange`). -/
theorem drawnSpeedIsWithinTheBounds : Obligations.DrawnSpeedIsWithinTheBounds :=
  fun cfg seed legal => speedOf_inRange legal (nextSeed cfg seed)

/-! ### The corner cases at `CFG0` -/

/-- A fixed word updates by its two shifts, combined with `RNG_CONST` by exclusive or. -/
theorem nextSeed_cfg0_of_shifts {seed mixed : BitVec 32} (shifts : seed <<< 1 ^^^ seed >>> 30 = mixed) (rng : BitVec 32) :
    nextSeed (Config.cfg0 rng) seed = mixed ^^^ rng :=
  congrArg (· ^^^ rng) shifts

/-- The speeds of `CFG0` are 1 to 5. -/
theorem speedOf_cfg0 (rng seed1 : BitVec 32) : speedOf (Config.cfg0 rng) seed1 = BitVec.ofNat 8 (1 + seed1.toNat % 5) :=
  rfl

/-- With `RNG_CONST` 0 the generator never leaves the word 0 (R74 (a)). -/
theorem iterate_nextSeed_zero (n : Nat) : (nextSeed (Config.cfg0 0#32))^[n] 0#32 = 0#32 :=
  Function.iterate_fixed (nextSeed_cfg0_of_shifts (mixed := 0#32) (by decide) 0#32) n

/-- Settles O11: 0 is a fixed point (`iterate_nextSeed_zero`), and each listed word updates by its two shifts. -/
theorem generatorCornerCases : Obligations.GeneratorCornerCases := by
  refine ⟨fun n => ⟨iterate_nextSeed_zero n, ?_⟩, fun rng => ⟨?_, ?_, ?_, ?_, ?_⟩, ?_, ?_⟩
  · rw [iterate_nextSeed_zero, speedOf_cfg0]
    rfl
  · exact nextSeed_cfg0_of_shifts (by decide) rng
  · exact nextSeed_cfg0_of_shifts (by decide) rng
  · exact nextSeed_cfg0_of_shifts (by decide) rng
  · have merged : nextSeed (Config.cfg0 rng) 1#32 = 2#32 ^^^ rng := nextSeed_cfg0_of_shifts (by decide) rng
    rw [merged, nextSeed_cfg0_of_shifts (mixed := 2#32) (by decide)]
  · rw [speedOf_cfg0]
    rfl
  · exact nextSeed_cfg0_of_shifts (mixed := 0x80000001#32) (by decide) 0#32
  · exact nextSeed_cfg0_of_shifts (mixed := 0#32) (by decide) 0#32

/-! ### The command `NEXT_SPEED` -/

/-- The code `OK` and the reserved bits are zeros above the payload (R57). -/
theorem rspWord_okCode (p : Payload) : rspWord okCode p = p.zeroExtend 64 := by
  simp [rspWord, okCode, place]

/-- The speed stands in `rsp[7:0]` under zeros (R58). -/
theorem rspWord_okCode_speed (speed : BitVec 8) : rspWord okCode (speed.zeroExtend 48) = speed.zeroExtend 64 := by
  rw [rspWord_okCode]
  exact BitVec.setWidth_setWidth (by omega)

/-- The whole next state of `NEXT_SPEED` in the running state (R73). -/
theorem nextSpeedIn_of_running (cfg : Cfg) {s : State} {r : HeldRegs} (running : heldRegs s = some r) :
    nextSpeedIn cfg s = { s with
      held := some { r with seed := nextSeed cfg r.seed }
      trace := s.trace ++ [.response ((speedOf cfg (nextSeed cfg r.seed)).zeroExtend 64)] } := by
  rw [← rspWord_okCode_speed]
  simp only [nextSpeedIn, running]
  rfl

/-- Settles O24: `exec` is the parametric machine at `Config.cfg`, and the next state is that of
`nextSpeedIn_of_running`. -/
theorem nextSpeedAdvancesOnlyTheSeed : Obligations.NextSpeedAdvancesOnlyTheSeed := by
  intro s r running
  rw [exec_eq_execIn]
  exact congrArg Host.Outcome.next (nextSpeedIn_of_running Config.cfg running)

/-! ### Many draws -/

theorem acceptIn_nextSpeed (cfg : Cfg) (s : State) :
    acceptIn cfg (.command 0x3000000000000000#64) s = nextSpeedIn cfg s := by
  have decoded : decode 0x3000000000000000#64 = .ok .nextSpeed := by decide
  simp only [acceptIn, decoded, execIn]

/-- A step that takes `NEXT_SPEED` in the running state stays there: it updates `SEED` once, answers the speed drawn and
leaves the rest of what the host presents. -/
theorem stepIn_nextSpeed_of_running (cfg : Cfg) {s : State} {r : HeldRegs} {rest : List Input}
    (running : heldRegs s = some r) (presented : s.inputs = .command 0x3000000000000000#64 :: rest) :
    heldRegs (stepIn cfg s) = some { r with seed := nextSeed cfg r.seed } ∧
    (stepIn cfg s).inputs = rest ∧
    (stepIn cfg s).trace = s.trace ++ [.response ((speedOf cfg (nextSeed cfg r.seed)).zeroExtend 64)] := by
  have ready : heldRegs (s.setInputs rest) = some r := running
  obtain ⟨isInited, -⟩ := heldRegs_eq_some.mp running
  rw [stepIn_of_command cfg presented, acceptIn_nextSpeed, nextSpeedIn_of_running cfg ready]
  exact ⟨heldRegs_eq_some.mpr ⟨isInited, rfl⟩, rfl, rfl⟩

/-- Settles O52, by induction on the number of commands: the first one leaves a running state whose seed is the first
update (`stepIn_nextSpeed_of_running`), and the others draw from that seed. -/
theorem speedSequenceIsAFunctionOfTheSeedAndTheDraws : Obligations.SpeedSequenceIsAFunctionOfTheSeedAndTheDraws := by
  intro cfg s r n rest running presented
  induction n generalizing s r with
  | zero => exact ⟨running, by simp [runIn]⟩
  | succ n ih =>
    obtain ⟨stillRunning, left, answered⟩ := stepIn_nextSpeed_of_running cfg running presented
    obtain ⟨seedDrawn, speedsAnswered⟩ := ih _ _ stillRunning left
    refine ⟨seedDrawn, ?_⟩
    rw [runIn, speedsAnswered, answered, List.append_assoc, List.range_succ_eq_map, List.map_cons, List.map_map]
    rfl

end Sys2Proof.Machine
end

section
/-! PROOFS. The family of spec/41_color_converter.md: the region and the remainder of a hue, the sector table, the duty of a
channel, the triples of the converter, and what `CONVERT` answers. -/

namespace Sys2Proof.Machine

/-! ### The region and the remainder of a hue -/

/-- A hue lies in region `k` from `60 k` on, for 60 hues (R84). -/
theorem regionOf_eq {h : Fin 360} {k : Fin 6} (low : 60 * k.val ≤ h.val) (high : h.val < 60 * k.val + 60) :
    regionOf h = k := by
  apply Fin.ext
  simp only [regionOf]
  omega

theorem remainderOf_le (h : Nat) : remainderOf h ≤ 250 := by
  unfold remainderOf
  omega

/-- The top of a region stops short of 255 (R84). -/
theorem remainderOf_of_top {h : Nat} (top : h % 60 = 59) : remainderOf h = 250 := by
  rw [remainderOf, top]

theorem remainderOf_eq_zero_iff {h : Nat} : remainderOf h = 0 ↔ 60 ∣ h := by
  unfold remainderOf
  omega

/-- Settles O12. -/
theorem regionAndRemainderOfAHue : Obligations.RegionAndRemainderOfAHue := by
  intro h
  have inRegion : h.val % 60 < 60 := Nat.mod_lt _ (by decide)
  exact ⟨rfl, Nat.le_of_lt_succ (regionOf h).isLt, rfl, Nat.le_of_lt_succ inRegion, remainderOf_le _, remainderOf_of_top,
    remainderOf_eq_zero_iff⟩

/-! ### The intermediates of a sector -/

/-- Scaling by a part of 255 takes nothing above the value scaled. -/
theorem mul_div_255_le {x : Nat} (part : x ≤ 255) (v : Nat) : v * x / 255 ≤ v :=
  Nat.div_le_of_le_mul ((Nat.mul_le_mul_left v part).trans_eq (Nat.mul_comm v 255))

theorem pOf_le (s v : Nat) : pOf s v ≤ v := mul_div_255_le (Nat.sub_le _ _) v

theorem qOf_le (s v rem : Nat) : qOf s v rem ≤ v := mul_div_255_le (Nat.sub_le _ _) v

theorem tOf_le (s v rem : Nat) : tOf s v rem ≤ v := mul_div_255_le (Nat.sub_le _ _) v

/-- At full saturation nothing of the brightness is left in `p` (R92 (b)). -/
theorem pOf_of_saturated (v : Nat) : pOf 255 v = 0 := by
  simp [pOf]

/-- At the foot of a region `q` is the whole brightness (R92 (c)). -/
theorem qOf_of_remainder_zero (s v : Nat) : qOf s v 0 = v := by
  simp [qOf]

/-- At the foot of a region `t` starts from `p` (R92 (c)). -/
theorem tOf_of_remainder_zero (s v : Nat) : tOf s v 0 = pOf s v := by
  simp [tOf, pOf]

/-- Settles O13: each intermediate is the brightness scaled by a part of 255 (`mul_div_255_le`), and so are the amounts
taken away from 255. -/
theorem sectorIntermediatesNeverExceedTheBrightness : Obligations.SectorIntermediatesNeverExceedTheBrightness := by
  intro s v rem saturation _ remainder
  have inQ : s * rem / 255 ≤ 250 := by
    rw [Nat.mul_comm]
    exact (mul_div_255_le saturation rem).trans remainder
  have inT : s * (255 - rem) / 255 ≤ 255 := (mul_div_255_le (Nat.sub_le _ _) s).trans saturation
  exact ⟨rfl, rfl, rfl, inQ, inT, pOf_le s v, qOf_le s v rem, tOf_le s v rem⟩

/-! ### The sector table -/

/-- The row of the table that a hue range selects (R86). -/
theorem sectorTriple_of_range {h : Fin 360} {k : Fin 6} (low : 60 * k.val ≤ h.val) (high : h.val < 60 * k.val + 60)
    (s v : Nat) :
    sectorTriple h s v = selectSector k v (pOf s v) (qOf s v (remainderOf h.val)) (tOf s v (remainderOf h.val)) := by
  rw [sectorTriple, regionOf_eq low high]

/-- No row of the table brings in more than the brightness if the intermediates do not. -/
theorem selectSector_le (region : Fin 6) {v p q t : Nat} (pLe : p ≤ v) (qLe : q ≤ v) (tLe : t ≤ v) :
    (selectSector region v p q t).r ≤ v ∧ (selectSector region v p q t).g ≤ v ∧
      (selectSector region v p q t).b ≤ v := by
  match region with
  | 0 => exact ⟨le_rfl, tLe, pLe⟩
  | 1 => exact ⟨qLe, le_rfl, pLe⟩
  | 2 => exact ⟨pLe, le_rfl, tLe⟩
  | 3 => exact ⟨pLe, qLe, le_rfl⟩
  | 4 => exact ⟨tLe, pLe, le_rfl⟩
  | 5 => exact ⟨le_rfl, pLe, qLe⟩

theorem sectorTriple_le (h : Fin 360) (s v : Nat) :
    (sectorTriple h s v).r ≤ v ∧ (sectorTriple h s v).g ≤ v ∧ (sectorTriple h s v).b ≤ v :=
  selectSector_le (regionOf h) (pOf_le s v) (qOf_le s v _) (tOf_le s v _)

theorem sectorTriple_le_of_le (h : Fin 360) (s : Nat) {v m : Nat} (bounded : v ≤ m) :
    (sectorTriple h s v).r ≤ m ∧ (sectorTriple h s v).g ≤ m ∧ (sectorTriple h s v).b ≤ m := by
  obtain ⟨red, green, blue⟩ := sectorTriple_le h s v
  exact ⟨red.trans bounded, green.trans bounded, blue.trans bounded⟩

theorem sectorTriple_of_dark (h : Fin 360) (s : Nat) : sectorTriple h s 0 = ⟨0, 0, 0⟩ := by
  obtain ⟨red, green, blue⟩ := sectorTriple_le h s 0
  calc sectorTriple h s 0 = ⟨(sectorTriple h s 0).r, (sectorTriple h s 0).g, (sectorTriple h s 0).b⟩ := rfl
    _ = ⟨0, 0, 0⟩ := by
      rw [Nat.eq_zero_of_le_zero red, Nat.eq_zero_of_le_zero green, Nat.eq_zero_of_le_zero blue]

theorem convertIn_of_outside (cfg : Cfg) {hue : BitVec 9} (outside : 360 ≤ hue.toNat) (sat val : BitVec 8) (s : State) :
    convertIn cfg hue sat val s = refuse .domain s := by
  have noHue : hueInDomain (operandValue hue) = none := hueInDomain_eq_none.mpr outside
  simp only [convertIn, noHue]

theorem convertIn_of_inside (cfg : Cfg) {hue : BitVec 9} {h : Fin 360} (inside : hue.toNat = h.val) (sat val : BitVec 8)
    (s : State) : convertIn cfg hue sat val s = respondOk (triplePayload (hsv2duty cfg h sat val)) s := by
  have isHue : hueInDomain (operandValue hue) = some h := hueInDomain_eq_some.mpr inside
  simp only [convertIn, isHue]

/-- Settles O14: the range of a hue is its region, and with it its row (`sectorTriple_of_range`). -/
theorem sectorTableAssignsTheChannels : Obligations.SectorTableAssignsTheChannels := by
  refine ⟨fun h s v => ⟨fun high => ?_, fun low high => ?_, fun low high => ?_, fun low high => ?_, fun low high => ?_,
    fun low => ?_⟩, fun h s v _ brightness => sectorTriple_le_of_le h s brightness,
    fun cfg hue sat val s outside => convertIn_of_outside cfg outside sat val s⟩
  · exact sectorTriple_of_range (k := 0) (Nat.zero_le _) (Nat.lt_succ_of_le high) s v
  · exact sectorTriple_of_range (k := 1) low (Nat.lt_succ_of_le high) s v
  · exact sectorTriple_of_range (k := 2) low (Nat.lt_succ_of_le high) s v
  · exact sectorTriple_of_range (k := 3) low (Nat.lt_succ_of_le high) s v
  · exact sectorTriple_of_range (k := 4) low (Nat.lt_succ_of_le high) s v
  · exact sectorTriple_of_range (k := 5) low h.isLt s v

/-! ### The duty of a channel -/

/-- A legal period is at most 65536 counts (R6), so the product fits 24 bits (R87). -/
theorem mul_pwmPeriod_lt {cfg : Cfg} (legal : cfg.InBounds) {c8 : Nat} (intensity : c8 ≤ 255) :
    c8 * cfg.pwmPeriod < 2 ^ 24 := by
  obtain ⟨-, periodFits, -⟩ := legal
  calc c8 * cfg.pwmPeriod ≤ 255 * 65536 := Nat.mul_le_mul intensity periodFits
    _ < 2 ^ 24 := by decide

theorem scaleDuty_le (cfg : Cfg) {c8 : Nat} (intensity : c8 ≤ 255) : scaleDuty cfg c8 ≤ cfg.pwmPeriod := by
  rw [scaleDuty, Nat.mul_comm]
  exact mul_div_255_le intensity cfg.pwmPeriod

/-- The largest product of the calibration, whose hundredth part is 167116 (R87). -/
theorem scaleDuty_mul_le {cfg : Cfg} (legal : cfg.InBounds) {c8 cal : Nat} (intensity : c8 ≤ 255) (percent : cal ≤ 255) :
    scaleDuty cfg c8 * cal ≤ 65536 * 255 := by
  obtain ⟨-, periodFits, -⟩ := legal
  exact Nat.mul_le_mul ((scaleDuty_le cfg intensity).trans periodFits) percent

theorem channelDuty_zero (cfg : Cfg) (cal : Nat) : channelDuty cfg cal 0 = 0 := by
  have nothing : calibrate (scaleDuty cfg 0) cal = 0 := by simp [calibrate, scaleDuty]
  rw [channelDuty, nothing, clampDuty_of_le (Nat.zero_le _)]

/-! ### The same at `CFG0`: a period of 32768 counts, calibrations of 100, 85 and 110 percent -/

theorem calibrations_cfg0 (rng : BitVec 32) :
    (Config.cfg0 rng).calR = 100 ∧ (Config.cfg0 rng).calG = 85 ∧ (Config.cfg0 rng).calB = 110 := ⟨rfl, rfl, rfl⟩

theorem scaleDuty_cfg0 (rng : BitVec 32) (c8 : Nat) : scaleDuty (Config.cfg0 rng) c8 = c8 * 32768 / 255 := rfl

theorem clampDuty_cfg0 (rng : BitVec 32) (x : Nat) : clampDuty (Config.cfg0 rng) x = min x 32767 := by
  rw [clampDuty_eq_min, safeMaxDuty_cfg0]

theorem channelDuty_cfg0 (rng : BitVec 32) (cal c8 : Nat) :
    channelDuty (Config.cfg0 rng) cal c8 = min (c8 * 32768 / 255 * cal / 100) 32767 := by
  rw [channelDuty, clampDuty_cfg0, scaleDuty_cfg0, calibrate]

/-! ### The triples of the converter -/

/-- At saturation 0 neither the hue nor a calibration enters (R83). -/
theorem hsv2duty_of_achromatic (cfg : Cfg) (h : Fin 360) (v : BitVec 8) :
    hsv2duty cfg h 0#8 v =
      ⟨clampDuty cfg (scaleDuty cfg v.toNat), clampDuty cfg (scaleDuty cfg v.toNat),
       clampDuty cfg (scaleDuty cfg v.toNat)⟩ := by
  simp [hsv2duty]

/-- At any other saturation each channel goes its own way from its member of the sector's triple (R87). -/
theorem hsv2duty_of_sector (cfg : Cfg) {h : Fin 360} {s v : BitVec 8} {c : Triple} (chromatic : s ≠ 0#8)
    (sector : sectorTriple h s.toNat v.toNat = c) :
    hsv2duty cfg h s v =
      ⟨channelDuty cfg cfg.calR c.r, channelDuty cfg cfg.calG c.g, channelDuty cfg cfg.calB c.b⟩ := by
  have nonzero : s.toNat ≠ 0 := fun zero => chromatic (BitVec.eq_of_toNat_eq zero)
  rw [hsv2duty, if_neg nonzero, sector]

/-- The duties of `CFG0` on the chromatic path, which do not depend on `RNG_CONST`. -/
theorem hsv2duty_cfg0_of_sector (rng : BitVec 32) (h : Fin 360) (s v : BitVec 8) {c : Triple} (chromatic : s ≠ 0#8)
    (sector : sectorTriple h s.toNat v.toNat = c) :
    hsv2duty (Config.cfg0 rng) h s v =
      ⟨min (c.r * 32768 / 255 * 100 / 100) 32767, min (c.g * 32768 / 255 * 85 / 100) 32767,
       min (c.b * 32768 / 255 * 110 / 100) 32767⟩ := by
  obtain ⟨calR, calG, calB⟩ := calibrations_cfg0 rng
  simp only [hsv2duty_of_sector _ chromatic sector, channelDuty_cfg0, calR, calG, calB]

theorem hsv2duty_cfg0_of_achromatic (rng : BitVec 32) (h : Fin 360) {v : BitVec 8} {value : Nat}
    (brightness : v.toNat = value) :
    hsv2duty (Config.cfg0 rng) h 0#8 v =
      ⟨min (value * 32768 / 255) 32767, min (value * 32768 / 255) 32767, min (value * 32768 / 255) 32767⟩ := by
  rw [hsv2duty_of_achromatic, clampDuty_cfg0, scaleDuty_cfg0, brightness]

/-- Brightness 0 is dark on both paths of the converter (R92 (a)). -/
theorem hsv2duty_of_dark (cfg : Cfg) (h : Fin 360) (s : BitVec 8) : hsv2duty cfg h s 0#8 = ⟨0, 0, 0⟩ := by
  by_cases achromatic : s = 0#8
  · have nothing : scaleDuty cfg (0#8).toNat = 0 := by simp [scaleDuty]
    rw [achromatic, hsv2duty_of_achromatic, nothing, clampDuty_of_le (Nat.zero_le _)]
  · rw [hsv2duty_of_sector cfg achromatic (sectorTriple_of_dark h s.toNat)]
    simp only [channelDuty_zero]

/-- Settles O15: the chromatic path of the converter (`hsv2duty_of_sector`), and the bounds of a legal configuration. -/
theorem channelIsScaledCalibratedThenClamped : Obligations.ChannelIsScaledCalibratedThenClamped := by
  refine fun cfg legal => ⟨fun h s v chromatic => ?_, fun c8 cal intensity percent => ?_⟩
  · exact ⟨hsv2duty_of_sector cfg chromatic rfl, sectorTriple_le_of_le h s.toNat (Nat.le_of_lt_succ v.isLt)⟩
  · have product : scaleDuty cfg c8 * cal ≤ 65536 * 255 := scaleDuty_mul_le legal intensity percent
    exact ⟨mul_pwmPeriod_lt legal intensity, scaleDuty_le cfg intensity, product.trans_lt (by decide),
      Nat.div_le_div_right product, clampDuty_le cfg _⟩

/-- Settles O16: the achromatic path of the converter, and its duties at three brightnesses of `CFG0`. -/
theorem achromaticTripleIgnoresHueAndCalibration : Obligations.AchromaticTripleIgnoresHueAndCalibration := by
  refine ⟨hsv2duty_of_achromatic, fun rng h => ⟨?_, ?_, ?_, hsv2duty_of_dark _ h _⟩⟩
  · rw [scaleDuty_cfg0]
  · exact (hsv2duty_cfg0_of_achromatic rng h (v := 255#8) (value := 255) rfl).trans (by decide)
  · exact (hsv2duty_cfg0_of_achromatic rng h (v := 220#8) (value := 220) rfl).trans (by decide)

theorem safeMaxDuty_lt {cfg : Cfg} (legal : cfg.InBounds) : safeMaxDuty cfg < cfg.pwmPeriod := by
  obtain ⟨period, -⟩ := legal
  unfold safeMaxDuty
  omega

/-- Settles O17: the clamp ends both paths of the converter (`hsv2duty_bounded`). -/
theorem everyOutputStaysBelowThePeriod : Obligations.EveryOutputStaysBelowThePeriod := by
  refine ⟨fun cfg h s v legal => ?_, fun rng => ?_⟩
  · obtain ⟨red, green, blue⟩ := hsv2duty_bounded cfg h s v
    exact ⟨red, green, blue, safeMaxDuty_lt legal⟩
  · obtain ⟨calR, -, calB⟩ := calibrations_cfg0 rng
    simp only [calR, calB, channelDuty_cfg0, scaleDuty_cfg0, calibrate]
    decide

/-- Settles O18: the corners of the intermediates, and the worked values of `CFG0` from the triples of their sectors. -/
theorem converterCornerCases : Obligations.ConverterCornerCases := by
  refine ⟨hsv2duty_of_dark, pOf_of_saturated, fun h s v _ foot => ?_, fun rng => ⟨?_, ?_, ?_, ?_⟩⟩
  · rw [remainderOf_eq_zero_iff.mpr foot]
    exact ⟨qOf_of_remainder_zero s v, tOf_of_remainder_zero s v⟩
  · exact (hsv2duty_cfg0_of_sector rng 59 255#8 220#8 (c := ⟨220, 215, 0⟩) (by decide) (by decide)).trans (by decide)
  · exact (hsv2duty_cfg0_of_sector rng 60 255#8 220#8 (c := ⟨220, 220, 0⟩) (by decide) (by decide)).trans (by decide)
  · exact (hsv2duty_cfg0_of_sector rng 359 255#8 255#8 (c := ⟨255, 0, 5⟩) (by decide) (by decide)).trans (by decide)
  · exact (hsv2duty_cfg0_of_sector rng 150 1#8 255#8 (c := ⟨254, 255, 255⟩) (by decide) (by decide)).trans (by decide)

/-- Settles O19: each scenario from the triple of its sector. -/
theorem sourceScenariosAtHuesZeroAndThreeHundred : Obligations.SourceScenariosAtHuesZeroAndThreeHundred := by
  intro rng
  have atZero : sectorTriple 0 255 220 = ⟨220, 0, 0⟩ := by decide
  have atThreeHundred : sectorTriple 300 255 220 = ⟨220, 0, 220⟩ := by decide
  refine ⟨atZero, atThreeHundred, ?_, ?_⟩
  · exact (hsv2duty_cfg0_of_sector rng 0 255#8 220#8 (by decide) atZero).trans (by decide)
  · exact (hsv2duty_cfg0_of_sector rng 300 255#8 220#8 (by decide) atThreeHundred).trans (by decide)

/-! ### The command `CONVERT` -/

/-- Under the code `OK` a part of the response is that part of the payload, and zeros above it. -/
theorem extract_rspWord_okCode (p : Payload) {start len : Nat} (fits : start + len ≤ 64) :
    (rspWord okCode p).extractLsb' start len = p.extractLsb' start len := by
  apply BitVec.eq_of_getLsbD_eq
  intro k inPart
  have inWord : start + k < 64 := by omega
  simp [rspWord_okCode, inPart, inWord]

/-- Where each channel stands in the payload (R58). -/
theorem extract_triplePayload (d : Triple) :
    (triplePayload d).extractLsb' 32 16 = BitVec.ofNat 16 d.r ∧
    (triplePayload d).extractLsb' 16 16 = BitVec.ofNat 16 d.g ∧
    (triplePayload d).extractLsb' 0 16 = BitVec.ofNat 16 d.b := by
  simp [triplePayload]

/-- A duty of a legal configuration fits its sixteen bits (R59). -/
theorem toNat_ofNat_duty {cfg : Cfg} (legal : cfg.InBounds) {d : Nat} (duty : d ≤ safeMaxDuty cfg) :
    (BitVec.ofNat 16 d).toNat = d := by
  have belowPeriod : d < cfg.pwmPeriod := duty.trans_lt (safeMaxDuty_lt legal)
  obtain ⟨-, periodFits, -⟩ := legal
  exact Nat.mod_eq_of_lt (belowPeriod.trans_le periodFits)

/-- Settles O25: the converter's duties are bounded (`hsv2duty_bounded`), so each fits its field of the response. -/
theorem convertInsideTheDomainAnswersTheTriple : Obligations.ConvertInsideTheDomainAnswersTheTriple := by
  intro s hue sat val h inside
  obtain ⟨red, green, blue⟩ := hsv2duty_bounded Config.cfg h sat val
  obtain ⟨redField, greenField, blueField⟩ := extract_triplePayload (hsv2duty Config.cfg h sat val)
  refine ⟨rspWord okCode (triplePayload (hsv2duty Config.cfg h sat val)), ?_, ?_, ?_, ?_, ?_⟩
  · rw [exec_eq_execIn, execIn, convertIn_of_inside _ inside]
    rfl
  · rw [extract_rspWord_okCode _ (by decide)]
    simp [triplePayload]
  · rw [extract_rspWord_okCode _ (by decide), redField, toNat_ofNat_duty cfg_inBounds red]
  · rw [extract_rspWord_okCode _ (by decide), greenField, toNat_ofNat_duty cfg_inBounds green]
  · rw [extract_rspWord_okCode _ (by decide), blueField, toNat_ofNat_duty cfg_inBounds blue]

/-- The refusal with `DOMAIN`, its sticky bit and its response word written out (R126, R128). -/
theorem refuse_domain_eq (s : State) :
    refuse .domain s = { s with
      status := s.status ||| 0x4#32
      trace := s.trace ++ [.response 0x2000000000000000#64] } := rfl

/-- Settles O26: the domain check comes before the saturation is looked at (`convertIn_of_outside`). -/
theorem convertOutsideTheDomainIsRefused : Obligations.ConvertOutsideTheDomainIsRefused := by
  intro s hue sat val outside
  rw [exec_eq_execIn, execIn, convertIn_of_outside _ outside, refuse_domain_eq]

end Sys2Proof.Machine
end

section
/-! PROOFS. The family of spec/42_clamper.md: the clamp as a function of its argument and of the period, and the whole next
state of `CLAMP`. -/

namespace Sys2Proof.Machine

/-! ### The clamp -/

/-- From `SAFE_MAX_DUTY` on every argument saturates (R101). -/
theorem clampDuty_of_ge {cfg : Cfg} {x : Nat} (beyond : safeMaxDuty cfg ≤ x) : clampDuty cfg x = safeMaxDuty cfg := by
  rw [clampDuty_eq_min, min_eq_right beyond]

theorem clampDuty_mono (cfg : Cfg) : Monotone (clampDuty cfg) := by
  intro x y ordered
  rw [clampDuty_eq_min, clampDuty_eq_min]
  exact min_le_min_right _ ordered

/-- The counter never wraps: a duty is strictly less than the period (R100, R103 (d)). -/
theorem clampDuty_lt_pwmPeriod {cfg : Cfg} (legal : cfg.InBounds) (x : Nat) : clampDuty cfg x < cfg.pwmPeriod :=
  (clampDuty_le cfg x).trans_lt (safeMaxDuty_lt legal)

theorem clampDuty_lt_two_pow {cfg : Cfg} (legal : cfg.InBounds) (x : Nat) : clampDuty cfg x < 2 ^ 16 := by
  have belowPeriod : clampDuty cfg x < cfg.pwmPeriod := clampDuty_lt_pwmPeriod legal x
  obtain ⟨-, periodFits, -⟩ := legal
  exact belowPeriod.trans_le periodFits

theorem safeMaxDuty_of_period {cfg : Cfg} {period : Nat} (isPeriod : cfg.pwmPeriod = period) :
    safeMaxDuty cfg = period - 1 := by
  rw [safeMaxDuty, isPeriod]

/-- Settles O7: an argument is kept (`clampDuty_of_le`) or saturates (`clampDuty_of_ge`). -/
theorem clampIsTheMinimumWithSafeMaxDuty : Obligations.ClampIsTheMinimumWithSafeMaxDuty := by
  refine fun cfg legal => ⟨fun x atMost => clampDuty_of_le atMost, fun x beyond => clampDuty_of_ge beyond.le,
    fun x => ⟨clampDuty_eq_min cfg x, clampDuty_lt_two_pow legal x⟩, ?_, ?_, ?_⟩
  · exact clampDuty_of_le (Nat.zero_le _)
  · exact clampDuty_of_le le_rfl
  · exact clampDuty_of_ge (safeMaxDuty_lt legal).le

/-- Settles O8: a clamped value is a legal duty, which a second clamp keeps; the corner cases are minima with the
`SAFE_MAX_DUTY` of their period. -/
theorem clampIsIdempotentMonotoneAndBounded : Obligations.ClampIsIdempotentMonotoneAndBounded := by
  refine ⟨fun cfg legal => ⟨?_, ?_, ?_, ?_⟩, fun rng => ?_, fun cfg smallest => ?_, fun cfg largest => ?_⟩
  · exact fun x => clampDuty_of_le (clampDuty_le cfg x)
  · exact fun x y ordered => clampDuty_mono cfg ordered
  · exact fun x legalDuty => clampDuty_of_le legalDuty
  · exact clampDuty_lt_pwmPeriod legal
  · simp only [clampDuty_cfg0]
    decide
  · simp only [clampDuty_eq_min, safeMaxDuty_of_period smallest]
    decide
  · simp only [clampDuty_eq_min, safeMaxDuty_of_period largest]
    decide

/-! ### The command `CLAMP` -/

/-- A number that fits the payload is the whole response word under the code `OK` (R57, R58). -/
theorem rspWord_okCode_ofNat {d : Nat} (fits : d < 2 ^ 48) : rspWord okCode (BitVec.ofNat 48 d) = BitVec.ofNat 64 d := by
  rw [rspWord_okCode]
  exact BitVec.setWidth_ofNat_of_le_of_lt (by decide) fits

/-- The whole next state of `CLAMP`: the response is all that is added (R102). -/
theorem clampIn_eq {cfg : Cfg} (legal : cfg.InBounds) (x : BitVec 32) (s : State) :
    clampIn cfg x s = { s with
      trace := s.trace ++ [.response (BitVec.ofNat 64 (min x.toNat (safeMaxDuty cfg)))] } := by
  have fits : clampDuty cfg x.toNat < 2 ^ 48 := (clampDuty_lt_two_pow legal x.toNat).trans (by decide)
  rw [← clampDuty_eq_min, ← rspWord_okCode_ofNat fits]
  rfl

/-- Settles O27: the machine's configuration is legal, so the next state is that of `clampIn_eq`. -/
theorem clampAnswersTheClampedOperand : Obligations.ClampAnswersTheClampedOperand := by
  intro s x
  rw [exec_eq_execIn, execIn, clampIn_eq cfg_inBounds, safeMaxDuty]

end Sys2Proof.Machine
end

section
/-! PROOFS. The family of spec/43_cycle_state_machine.md: the whole next state of `INIT` and of `ADVANCE`, what an
`ADVANCE` shows, and what a series of them does to the registers. -/

namespace Sys2Proof.Machine

/-! ### The command `INIT` -/

/-- The response of a command that answers no value is all zeros (R57). -/
theorem rspWord_okCode_zero : rspWord okCode 0#48 = 0#64 := by
  rw [rspWord_okCode]
  rfl

/-- The whole next state of `INIT`, whatever the state before (R107, R108 (a)). -/
theorem initIn_eq (cfg : Cfg) (sat val : BitVec 8) (seed : BitVec 32) (s : State) :
    initIn cfg sat val seed s = { s with
      status := s.status ||| 1#32
      held := some (initRegs cfg sat val seed)
      trace := s.trace ++ [.response 0#64] } := by
  rw [← rspWord_okCode_zero]
  rfl

/-- Settles O20: `exec` is the parametric machine at `Config.cfg`, and the next state is that of `initIn_eq`. -/
theorem initLoadsTheRegistersAndDrawsOnce : Obligations.InitLoadsTheRegistersAndDrawsOnce := by
  intro sat val seed s
  rw [exec_eq_execIn]
  exact congrArg Host.Outcome.next (initIn_eq Config.cfg sat val seed s)

/-- Settles O40: `INIT` leaves hue 0, counter 0 and a drawn speed (`regsOk_of_drawn`). -/
theorem initEstablishesTheRanges : Obligations.InitEstablishesTheRanges := by
  intro cfg sat val seed s legal
  exact ⟨initRegs cfg sat val seed, heldRegs_initIn cfg sat val seed s,
    regsOk_of_drawn legal (seed1 := nextSeed cfg seed) rfl rfl rfl⟩

/-! ### One tick of the registers -/

/-- Below the speed the counter counts and the hue waits (R110, R111 (a)). -/
theorem tick_of_below {r : HeldRegs} (below : r.stepCounter.toNat + 1 < r.currentSpeed.toNat) :
    tickCounter r = r.stepCounter.toNat + 1 ∧ tickHue r = r.hueStep.toNat := by
  have notFull : counterFull r = false := decide_eq_false (Nat.not_le.mpr below)
  simp [tickCounter, tickHue, notFull]

/-- At the speed the counter starts again and the hue moves (R110, R111 (b)). -/
theorem tick_of_reached {r : HeldRegs} (reached : r.currentSpeed.toNat ≤ r.stepCounter.toNat + 1) :
    tickCounter r = 0 ∧ tickHue r = r.hueStep.toNat + 1 := by
  have full : counterFull r = true := decide_eq_true reached
  simp [tickCounter, tickHue, full]

theorem tickRegs_of_below (cfg : Cfg) {r : HeldRegs} {h : Fin 360} (hue : r.hueStep.toNat = h.val)
    (below : r.stepCounter.toNat + 1 < r.currentSpeed.toNat) :
    tickRegs cfg r = ({ r with stepCounter := r.stepCounter + 1#8 }, h) := by
  obtain ⟨counts, waits⟩ := tick_of_below below
  have inside : hueInDomain (tickHue r) = some h := hueInDomain_eq_some.mpr (waits.trans hue)
  simp only [tickRegs, inside, counts, ← hue, BitVec.ofNat_add, BitVec.ofNat_toNat, BitVec.setWidth_eq]

theorem tickRegs_of_reached (cfg : Cfg) {r : HeldRegs} {h : Fin 360} (hue : r.hueStep.toNat + 1 = h.val)
    (reached : r.currentSpeed.toNat ≤ r.stepCounter.toNat + 1) :
    tickRegs cfg r = ({ r with stepCounter := 0#8, hueStep := r.hueStep + 1#9 }, h) := by
  obtain ⟨restarts, moves⟩ := tick_of_reached reached
  have inside : hueInDomain (tickHue r) = some h := hueInDomain_eq_some.mpr (moves.trans hue)
  simp only [tickRegs, inside, restarts, ← hue, BitVec.ofNat_add, BitVec.ofNat_toNat, BitVec.setWidth_eq]

/-- The step from hue 359 wraps and draws one speed from `SEED` (R111 (b), (f)). -/
theorem tickRegs_of_wrap (cfg : Cfg) {r : HeldRegs} (lastHue : r.hueStep = 359#9)
    (reached : r.currentSpeed.toNat ≤ r.stepCounter.toNat + 1) :
    tickRegs cfg r = ({ r with
      stepCounter := 0#8
      hueStep := 0#9
      seed := (nextStateSpeed cfg r.seed).1
      currentSpeed := (nextStateSpeed cfg r.seed).2 }, 0) := by
  obtain ⟨restarts, moves⟩ := tick_of_reached reached
  have outside : hueInDomain (tickHue r) = none := by
    rw [moves, lastHue]
    exact hueInDomain_eq_none.mpr le_rfl
  simp only [tickRegs, outside, restarts]

/-! ### The command `ADVANCE` -/

/-- The whole next state of `ADVANCE` in the running state, in terms of the ticked registers and of the hue they hold
(R110, R112). -/
theorem execIn_advance_eq (cfg : Cfg) {s : State} {r r' : HeldRegs} {h : Fin 360} (running : heldRegs s = some r)
    (ticked : tickRegs cfg r = (r', h)) :
    execIn cfg .advance s = { s with
      held := some r'
      trace := s.trace ++ tripleWrites (hsv2duty cfg h r.sat r.val) ++ [.response 0#64] } := by
  apply state_eq
  case h4 => rw [execIn_advance_trace_of_running cfg running, ticked, rspWord_okCode_zero]
  all_goals
    rw [execIn_advance_of_running cfg running, ticked]
    rfl

theorem exec_advance_eq {s : State} {r r' : HeldRegs} {h : Fin 360} (running : heldRegs s = some r)
    (ticked : tickRegs Config.cfg r = (r', h)) :
    exec .advance s = .next { s with
      held := some r'
      trace := s.trace ++ tripleWrites (hsv2duty Config.cfg h r.sat r.val) ++ [.response 0#64] } := by
  rw [exec_eq_execIn, execIn_advance_eq Config.cfg running ticked]

/-- Settles O21, with the registers of `tickRegs_of_below`. -/
theorem advanceBelowTheSpeedKeepsTheHue : Obligations.AdvanceBelowTheSpeedKeepsTheHue :=
  fun _ _ _ running hue below => exec_advance_eq running (tickRegs_of_below Config.cfg hue below)

/-- Settles O22, with the registers of `tickRegs_of_reached`. -/
theorem advanceAtTheSpeedStepsTheHue : Obligations.AdvanceAtTheSpeedStepsTheHue :=
  fun _ _ _ running hue reached => exec_advance_eq running (tickRegs_of_reached Config.cfg hue reached)

/-- Settles O23, with the registers of `tickRegs_of_wrap`. -/
theorem advanceAtTheLastHueWrapsAndDraws : Obligations.AdvanceAtTheLastHueWrapsAndDraws :=
  fun _ _ running lastHue reached => exec_advance_eq running (tickRegs_of_wrap Config.cfg lastHue reached)

/-! ### What an `ADVANCE` shows -/

/-- An `ADVANCE` shows the triple of the hue that the registers hold after it, at their operating point (R110, R115). -/
theorem execIn_advance_shows_hue_left (cfg : Cfg) {s : State} {r r' : HeldRegs} (running : heldRegs s = some r)
    (left : heldRegs (execIn cfg .advance s) = some r') :
    ∃ h : Fin 360, r'.hueStep.toNat = h.val ∧
      (execIn cfg .advance s).trace = s.trace ++ tripleWrites (hsv2duty cfg h r.sat r.val) ++ [.response 0#64] := by
  obtain rfl : (tickRegs cfg r).1 = r' := Option.some.inj ((heldRegs_advance_of_running cfg running).symm.trans left)
  refine ⟨(tickRegs cfg r).2, tickRegs_hueStep cfg r, ?_⟩
  rw [execIn_advance_trace_of_running cfg running, rspWord_okCode_zero]

/-! ### Many ticks -/

/-- Registers 1 to 6 after one successful `ADVANCE`. -/
def tickOnce (cfg : Cfg) (r : HeldRegs) : HeldRegs := (tickRegs cfg r).1

/-- A series of `ADVANCE` commands in the running state ticks the registers once for each. -/
theorem heldRegs_iterate_advance (cfg : Cfg) {s : State} {r : HeldRegs} (running : heldRegs s = some r) (n : Nat) :
    heldRegs ((execIn cfg .advance)^[n] s) = some ((tickOnce cfg)^[n] r) := by
  induction n with
  | zero => exact running
  | succ n ih =>
    rw [Function.iterate_succ_apply', Function.iterate_succ_apply', heldRegs_advance_of_running cfg ih, tickOnce]

/-- No tick moves the operating point (R110). -/
theorem iterate_tickOnce_operatingPoint (cfg : Cfg) (r : HeldRegs) (n : Nat) :
    ((tickOnce cfg)^[n] r).sat = r.sat ∧ ((tickOnce cfg)^[n] r).val = r.val := by
  induction n with
  | zero => exact ⟨rfl, rfl⟩
  | succ n ih =>
    obtain ⟨sameSat, sameVal, -⟩ := tickRegs_frame cfg ((tickOnce cfg)^[n] r)
    rw [Function.iterate_succ_apply', tickOnce, sameSat, sameVal]
    exact ih

/-- Settles O54: the operating point stays that of `INIT` (`iterate_tickOnce_operatingPoint`), and at saturation 0 the
triple reads no hue (`hsv2duty_of_achromatic`). -/
theorem zeroSaturationShowsOneColourForEver : Obligations.ZeroSaturationShowsOneColourForEver := by
  intro cfg val seed s n a t
  have running : heldRegs t = some ((tickOnce cfg)^[n] (initRegs cfg 0#8 val seed)) :=
    heldRegs_iterate_advance cfg (heldRegs_initIn cfg 0#8 val seed s) n
  obtain ⟨sameSat, sameVal⟩ := iterate_tickOnce_operatingPoint cfg (initRegs cfg 0#8 val seed) n
  rw [execIn_advance_trace_of_running cfg running, sameSat, sameVal, rspWord_okCode_zero]
  exact congrArg (fun d => t.trace ++ tripleWrites d ++ [.response 0#64]) (hsv2duty_of_achromatic cfg _ val)

/-! ### One revolution -/

/-- The registers with the hue and the counter they have `j` ticks into a revolution at speed `k` (R114). -/
def HeldRegs.turned (r : HeldRegs) (k j : Nat) : HeldRegs :=
  { r with hueStep := BitVec.ofNat 9 (j / k), stepCounter := BitVec.ofNat 8 (j % k) }

/-- The registers a revolution ends with: hue 0, counter 0 and one speed drawn (R114). -/
def HeldRegs.wrapped (cfg : Cfg) (r : HeldRegs) : HeldRegs :=
  { r with
    hueStep := 0#9
    stepCounter := 0#8
    seed := (nextStateSpeed cfg r.seed).1
    currentSpeed := (nextStateSpeed cfg r.seed).2 }

theorem turned_zero {r : HeldRegs} (hue : r.hueStep = 0#9) (counter : r.stepCounter = 0#8) (k : Nat) :
    r.turned k 0 = r := by
  simp [HeldRegs.turned, ← hue, ← counter]

section
variable {r : HeldRegs} {k j : Nat}

/-- Within a revolution the hue fits its nine bits. -/
theorem turned_hueStep_toNat (positive : 0 < k) (within : j < 360 * k) : (r.turned k j).hueStep.toNat = j / k := by
  have inDomain : j / k < 360 := (Nat.div_lt_iff_lt_mul positive).mpr within
  exact Nat.mod_eq_of_lt (by omega)

/-- The counter is below the speed, so it fits its eight bits. -/
theorem turned_stepCounter_toNat (speed : r.currentSpeed.toNat = k) (positive : 0 < k) :
    (r.turned k j).stepCounter.toNat = j % k := by
  have speedFits := r.currentSpeed.isLt
  have below : j % k < k := Nat.mod_lt j positive
  exact Nat.mod_eq_of_lt (by omega)

/-- A tick that does not end the revolution goes one further in it: the counter counts up to the speed, and there hands
over to the hue. -/
theorem tickOnce_turned (cfg : Cfg) (speed : r.currentSpeed.toNat = k) (positive : 0 < k) (within : j + 1 < 360 * k) :
    tickOnce cfg (r.turned k j) = r.turned k (j + 1) := by
  have hue : (r.turned k j).hueStep.toNat = j / k := turned_hueStep_toNat positive (by omega)
  have counter : (r.turned k j).stepCounter.toNat = j % k := turned_stepCounter_toNat speed positive
  have sameSpeed : (r.turned k j).currentSpeed.toNat = k := speed
  have counterBelow : j % k < k := Nat.mod_lt j positive
  have parts : j % k + k * (j / k) = j := Nat.mod_add_div j k
  by_cases below : j % k + 1 < k
  · obtain ⟨sameHue, counted⟩ : (j + 1) / k = j / k ∧ (j + 1) % k = j % k + 1 :=
      (Nat.div_mod_unique positive).mpr ⟨by omega, below⟩
    have inDomain : j / k < 360 := (Nat.div_lt_iff_lt_mul positive).mpr (by omega)
    rw [tickOnce, tickRegs_of_below cfg (h := ⟨j / k, inDomain⟩) hue (by omega)]
    simp only [HeldRegs.turned, sameHue, counted, BitVec.ofNat_add]
  · obtain ⟨nextHue, restarted⟩ : (j + 1) / k = j / k + 1 ∧ (j + 1) % k = 0 :=
      (Nat.div_mod_unique positive).mpr ⟨by rw [Nat.mul_succ]; omega, positive⟩
    have inDomain : j / k + 1 < 360 := by
      rw [← nextHue]
      exact (Nat.div_lt_iff_lt_mul positive).mpr within
    rw [tickOnce, tickRegs_of_reached cfg (h := ⟨j / k + 1, inDomain⟩) (by rw [hue]) (by omega)]
    simp only [HeldRegs.turned, nextHue, restarted, BitVec.ofNat_add]

/-- The last tick of a revolution finds hue 359 and the counter at the speed. -/
theorem tickOnce_turned_last (cfg : Cfg) (speed : r.currentSpeed.toNat = k) (last : j + 1 = 360 * k) :
    tickOnce cfg (r.turned k j) = r.wrapped cfg := by
  have positive : 0 < k := by omega
  obtain ⟨lastHue, lastCount⟩ : j / k = 359 ∧ j % k = k - 1 := (Nat.div_mod_unique positive).mpr (by omega)
  have counter : (r.turned k j).stepCounter.toNat = j % k := turned_stepCounter_toNat speed positive
  have sameSpeed : (r.turned k j).currentSpeed.toNat = k := speed
  rw [tickOnce, tickRegs_of_wrap cfg (by rw [HeldRegs.turned, lastHue]) (by omega)]
  rfl

theorem iterate_tickOnce_within (cfg : Cfg) (hue : r.hueStep = 0#9) (counter : r.stepCounter = 0#8)
    (speed : r.currentSpeed.toNat = k) (within : j < 360 * k) : (tickOnce cfg)^[j] r = r.turned k j := by
  induction j with
  | zero => exact (turned_zero hue counter k).symm
  | succ j ih =>
    rw [Function.iterate_succ_apply', ih (by omega), tickOnce_turned cfg speed (by omega) within]

theorem iterate_tickOnce_revolution (cfg : Cfg) (hue : r.hueStep = 0#9) (counter : r.stepCounter = 0#8)
    (speed : r.currentSpeed.toNat = k) (positive : 0 < k) : (tickOnce cfg)^[360 * k] r = r.wrapped cfg := by
  obtain ⟨j, last⟩ : ∃ j, 360 * k = j + 1 := ⟨360 * k - 1, by omega⟩
  rw [last, Function.iterate_succ_apply', iterate_tickOnce_within cfg hue counter speed (by omega),
    tickOnce_turned_last cfg speed last.symm]

end

/-- Settles O50: an `ADVANCE` shows the hue it leaves (`execIn_advance_shows_hue_left`), and `INIT` leaves the start of
a revolution at the speed drawn (`iterate_tickOnce_within`, `iterate_tickOnce_revolution`). -/
theorem advanceShowsAFunctionOfOperatingPointAndHue : Obligations.AdvanceShowsAFunctionOfOperatingPointAndHue := by
  refine ⟨?function, ?closure, ?afterInit⟩
  case function =>
    intro cfg s₁ s₂ r₁ r₂ r₁' r₂' running₁ running₂ sameSat sameVal left₁ left₂ sameHue
    obtain ⟨h, hue₁, shown₁⟩ := execIn_advance_shows_hue_left cfg running₁ left₁
    obtain ⟨h₂, hue₂, shown₂⟩ := execIn_advance_shows_hue_left cfg running₂ left₂
    obtain rfl : h = h₂ := Fin.ext (by rw [← hue₁, ← hue₂, sameHue])
    rw [List.append_assoc] at shown₁ shown₂
    exact ⟨_, shown₁, by rw [shown₂, sameSat, sameVal]⟩
  case closure =>
    intro cfg s r r' running left wrapped
    obtain ⟨h, hue, shown⟩ := execIn_advance_shows_hue_left cfg running left
    obtain rfl : h = 0 := Fin.ext (by rw [← hue, wrapped]; rfl)
    exact shown
  case afterInit =>
    intro cfg sat val seed s k j speed positive t
    have ticked : heldRegs t = some ((tickOnce cfg)^[j] (initRegs cfg sat val seed)) :=
      heldRegs_iterate_advance cfg (heldRegs_initIn cfg sat val seed s) j
    have within (early : j < 360 * k) : (tickOnce cfg)^[j] (initRegs cfg sat val seed) = _ :=
      iterate_tickOnce_within cfg rfl rfl speed early
    refine ⟨fun _ early => ⟨_, ticked, ?_⟩, fun one _ early => ⟨_, ticked, ?_⟩, fun one full => ⟨_, ticked, ?_⟩⟩
    · rw [within (by omega), HeldRegs.turned, Nat.div_eq_of_lt early]
    · rw [within (by omega), HeldRegs.turned, one, Nat.div_one]
    · have revolution : j = 360 * k := by omega
      rw [revolution, iterate_tickOnce_revolution cfg rfl rfl speed positive, HeldRegs.wrapped]

/-- The channel writes of an `ADVANCE` are three. -/
theorem length_chanWritesOf_append_advance (l : List OutEvent) (d : Triple) (w : RspWord) :
    (chanWritesOf (l ++ tripleWrites d ++ [.response w])).length = (chanWritesOf l).length + 3 := by
  simp [chanWritesOf, tripleWrites]

/-- A step that takes `ADVANCE` in the running state stays there: it ticks the registers, writes three channels and
leaves the rest of what the host presents. -/
theorem stepIn_advance_of_running (cfg : Cfg) {s : State} {r : HeldRegs} {rest : List Input}
    (running : heldRegs s = some r) (presented : s.inputs = .command 0x2000000000000000#64 :: rest) :
    heldRegs (stepIn cfg s) = some (tickOnce cfg r) ∧ (stepIn cfg s).inputs = rest ∧
    (chanWritesOf (stepIn cfg s).trace).length = (chanWritesOf s.trace).length + 3 := by
  have ready : heldRegs (s.setInputs rest) = some r := running
  rw [stepIn_of_command cfg presented, acceptIn_advance]
  refine ⟨heldRegs_advance_of_running cfg ready, execIn_inputs .., ?_⟩
  rw [execIn_advance_trace_of_running cfg ready, length_chanWritesOf_append_advance, setInputs_trace]

/-- By induction on the number of commands: the first one leaves a running state with the registers ticked once, and the
others tick those. -/
theorem runIn_advances (cfg : Cfg) {s : State} {r : HeldRegs} {n : Nat} {rest : List Input}
    (running : heldRegs s = some r)
    (presented : s.inputs = List.replicate n (.command 0x2000000000000000#64) ++ rest) :
    heldRegs (runIn cfg n s) = some ((tickOnce cfg)^[n] r) ∧
    (chanWritesOf (runIn cfg n s).trace).length = (chanWritesOf s.trace).length + 3 * n := by
  induction n generalizing s r with
  | zero => exact ⟨running, rfl⟩
  | succ n ih =>
    obtain ⟨stillRunning, left, written⟩ := stepIn_advance_of_running cfg running presented
    obtain ⟨ticked, writes⟩ := ih stillRunning left
    refine ⟨ticked, ?_⟩
    rw [runIn, writes, written]
    omega

/-- Settles O51: each command ticks the registers once and writes three channels (`runIn_advances`), the ticks before
the last go through the revolution (`iterate_tickOnce_within`), and the last one
wraps (`iterate_tickOnce_revolution`). -/
theorem oneRevolutionReturnsToHueZeroAndDrawsOnce : Obligations.OneRevolutionReturnsToHueZeroAndDrawsOnce := by
  intro cfg s r k rest running hue counter speed positive presented
  obtain ⟨ticked, writes⟩ := runIn_advances cfg running presented
  refine ⟨fun j within => ?_, ?_, ?_⟩
  · have firstPart : s.inputs = List.replicate j (.command 0x2000000000000000#64) ++
        (List.replicate (360 * k - j) (.command 0x2000000000000000#64) ++ rest) := by
      rw [presented, ← List.append_assoc, ← List.replicate_add, Nat.add_sub_cancel' within.le]
    obtain ⟨tickedSoFar, -⟩ := runIn_advances cfg running firstPart
    rw [tickedSoFar, iterate_tickOnce_within cfg hue counter speed within, HeldRegs.turned]
  · rw [ticked, iterate_tickOnce_revolution cfg hue counter speed positive, HeldRegs.wrapped]
  · rw [writes, Nat.mul_assoc]

end Sys2Proof.Machine
end

section
/-! PROOFS. The family of spec/44_system.md: what `RDREG` answers and refuses, and that a run with one inserted goes
on as it would have gone without it. -/

namespace Sys2Proof.Machine

/-! ### The command `RDREG` -/

/-- The value of a register stands in `rsp[31:0]` under zeros (R58, R121). -/
theorem rspWord_okCode_register (v : BitVec 32) : rspWord okCode (v.zeroExtend 48) = v.zeroExtend 64 := by
  rw [rspWord_okCode]
  exact BitVec.setWidth_setWidth (by omega)

/-- The whole next state of a successful `RDREG` (R121, R123). -/
theorem rdregIn_eq {n : BitVec 4} {reg : RegName} {s : State} {v : BitVec 32} (named : regOfNumber n = some reg)
    (read : readReg reg s = some v) :
    rdregIn n s = { s with trace := s.trace ++ [.response (v.zeroExtend 64)] } := by
  rw [← rspWord_okCode_register]
  simp only [rdregIn, named, read]
  rfl

theorem rdregIn_of_no_register {n : BitVec 4} (beyond : 7 ≤ n.toNat) (s : State) :
    rdregIn n s = refuse .illegal s := by
  have noRegister : regOfNumber n = none := regOfNumber_eq_none.mpr beyond
  simp only [rdregIn, noRegister]

theorem exec_rdreg_eq {n : BitVec 4} {reg : RegName} {s : State} {v : BitVec 32} (named : regOfNumber n = some reg)
    (read : readReg reg s = some v) :
    exec (.rdreg n) s = .next { s with trace := s.trace ++ [.response (v.zeroExtend 64)] } := by
  rw [exec_eq_execIn, execIn, rdregIn_eq named read]

/-- A narrow register is extended to 32 bits and then to the response word, which is one extension. -/
theorem exec_rdreg_eq_of_narrow {n : BitVec 4} {reg : RegName} {s : State} {w : Nat} {x : BitVec w} (narrow : w ≤ 32)
    (named : regOfNumber n = some reg) (read : readReg reg s = some (x.zeroExtend 32)) :
    exec (.rdreg n) s = .next { s with trace := s.trace ++ [.response (x.zeroExtend 64)] } := by
  have once : (x.zeroExtend 32).zeroExtend 64 = x.zeroExtend 64 := BitVec.setWidth_setWidth (by omega)
  rw [exec_rdreg_eq named read, once]

/-- `STATUS` holds a value in every state (R41). -/
theorem exec_rdreg_status (s : State) :
    exec (.rdreg 0#4) s = .next { s with trace := s.trace ++ [.response ((s.status &&& 0xF#32).zeroExtend 64)] } :=
  exec_rdreg_eq (reg := .status) rfl rfl

/-- Settles O28: each number names its register (R22), and the running state holds a value in each. -/
theorem rdregAnswersTheRegister : Obligations.RdregAnswersTheRegister := by
  refine ⟨exec_rdreg_status, fun s r running => ⟨?seed, ?hueStep, ?stepCounter, ?currentSpeed, ?sat, ?val⟩⟩
  case seed => exact exec_rdreg_eq (reg := .seed) rfl (by simp [readReg, running])
  case hueStep => exact exec_rdreg_eq_of_narrow (reg := .hueStep) (by decide) rfl (by simp [readReg, running])
  case stepCounter => exact exec_rdreg_eq_of_narrow (reg := .stepCounter) (by decide) rfl (by simp [readReg, running])
  case currentSpeed => exact exec_rdreg_eq_of_narrow (reg := .currentSpeed) (by decide) rfl (by simp [readReg, running])
  case sat => exact exec_rdreg_eq_of_narrow (reg := .sat) (by decide) rfl (by simp [readReg, running])
  case val => exact exec_rdreg_eq_of_narrow (reg := .val) (by decide) rfl (by simp [readReg, running])

/-- Settles O29: `STATUS` is answered in every state (`exec_rdreg_status`), reset leaves no other value to read
(`rdregIn_of_no_value`), and a number from 7 on is refused before any value is looked for (`rdregIn_of_no_register`). -/
theorem rdregCornerCases : Obligations.RdregCornerCases := by
  refine ⟨exec_rdreg_status State.reset, ?_, fun s refusedOnce => ?_, fun s n beyond => ?_⟩
  · have empty : heldRegs State.reset = none := heldRegs_of_not_inited rfl
    rw [exec_eq_execIn, execIn, rdregIn_of_no_value empty (by decide) (by decide), refuse_notInit_eq]
    rfl
  · rw [exec_rdreg_status, refusedOnce]
    rfl
  · rw [exec_eq_execIn, execIn, rdregIn_of_no_register beyond, refuse_illegal_eq]

/-! ### A command presented before everything else -/

theorem wf_rdreg_of_named {n : BitVec 4} {reg : RegName} (named : regOfNumber n = some reg) :
    (Instr.rdreg n).wf = true := by
  have register : ¬ 7 ≤ n.toNat := fun beyond => by simp [regOfNumber_eq_none.mpr beyond] at named
  exact decide_eq_true (Nat.lt_of_not_le register)

/-- The first step takes the word that was presented and leaves the rest as it was. -/
theorem stepIn_presentCommand (cfg : Cfg) (w : CmdWord) (s : State) :
    stepIn cfg (presentCommand w s) = acceptIn cfg (.command w) s :=
  stepIn_of_command cfg (presentCommand_inputs w s)

theorem acceptIn_encode (cfg : Cfg) {i : Instr} (legal : i.wf = true) (s : State) :
    acceptIn cfg (.command (encode i)) s = execIn cfg i s := by
  simp only [acceptIn, encodeThenDecodeReturnsTheCommand i legal]

/-! ### A run does not read the output trace -/

theorem runIn_prependTrace (cfg : Cfg) (k : Nat) (pre : List OutEvent) (s : State) :
    runIn cfg k (s.prependTrace pre) = (runIn cfg k s).prependTrace pre := by
  induction k generalizing s with
  | zero => rfl
  | succ k ih => rw [runIn, runIn, stepIn_prependTrace, ih]

/-- Whatever had left the block before, a run is the one from an empty trace with those events before its own. -/
theorem runIn_withTrace (cfg : Cfg) (k : Nat) (s : State) (pre : List OutEvent) :
    runIn cfg k { s with trace := pre } = (runIn cfg k { s with trace := [] }).prependTrace pre := by
  rw [withTrace_eq_prependTrace, runIn_prependTrace]

/-- Settles O47: the first step answers the register and adds that response alone (`rdregIn_eq`), and the `k` steps that
follow do not read the trace (`runIn_withTrace`). -/
theorem insertedRdregIsInvisible : Obligations.InsertedRdregIsInvisible := by
  intro cfg s n reg v k named read t t'
  have alone : t = (runIn cfg k { s with trace := [] }).prependTrace s.trace := runIn_withTrace cfg k s s.trace
  have inserted : t' = (runIn cfg k { s with trace := [] }).prependTrace (s.trace ++ [.response (v.zeroExtend 64)]) :=
    calc t' = runIn cfg k (stepIn cfg (presentCommand (encode (.rdreg n)) s)) := rfl
      _ = runIn cfg k { s with trace := s.trace ++ [.response (v.zeroExtend 64)] } := by
        rw [stepIn_presentCommand, acceptIn_encode cfg (wf_rdreg_of_named named), execIn, rdregIn_eq named read]
      _ = _ := runIn_withTrace cfg k s _
  rw [alone, inserted]
  exact ⟨rfl, rfl, rfl, _, rfl, rfl⟩

end Sys2Proof.Machine
end

section
/-! PROOFS. The family of spec/60_exceptions.md: which word is refused with which cause, what a refusal and a success do
to `STATUS` and to the trace, and that a refused command leaves the later ones alone. -/

namespace Sys2Proof.Machine

open Laws.EncodedOpcode (opcodeOf)

/-! ### The sticky bits -/

/-- The cause with code `n` has its sticky bit at `STATUS[n]` (R126). -/
theorem errBit_eq_twoPow (c : Cause) : errBit c = BitVec.twoPow 32 (causeCode c).toNat := by
  cases c <;> decide

theorem getLsbD_setErr (c : Cause) (st : BitVec 32) (k : Nat) :
    (setErr c st).getLsbD k = (decide (k = (causeCode c).toNat) || st.getLsbD k) := by
  have inWord : (causeCode c).toNat < 32 := (causeCode c).isLt.trans (by decide)
  have bit : (errBit c).getLsbD k = decide (k = (causeCode c).toNat) := by
    rw [errBit_eq_twoPow, BitVec.getLsbD_twoPow]
    simp [inWord, eq_comm]
  rw [setErr, BitVec.getLsbD_or, bit, Bool.or_comm]

theorem stickyBits_setErr (c : Cause) (st : BitVec 32) :
    stickyBits (setErr c st) = stickyBits st ||| stickyBits (errBit c) := extract_or ..

theorem stickyBits_setErr_ne_zero (c : Cause) (st : BitVec 32) : stickyBits (setErr c st) ≠ 0#3 := by
  have marked : stickyBits (errBit c) ≠ 0#3 := by cases c <;> decide
  rw [stickyBits_setErr]
  exact fun clear => marked (BitVec.or_eq_zero_iff.mp clear).2

/-- `INITED` is no sticky bit. -/
theorem stickyBits_setInited (st : BitVec 32) : stickyBits (setInited st) = stickyBits st := by
  have outside : stickyBits initedBit = 0#3 := by decide
  calc stickyBits (setInited st) = stickyBits st ||| stickyBits initedBit := extract_or ..
    _ = stickyBits st := by rw [outside, BitVec.or_zero]

/-- A response with a zero payload is its code alone (R57). -/
theorem rspWord_zero_payload (code : BitVec 4) : rspWord code 0#48 = BitVec.ofNat 64 (code.toNat * 2 ^ 60) := by
  revert code; decide

/-- Settles O31: the number of the cause is its code, which names both its sticky bit (`getLsbD_setErr`) and its
response (`rspWord_zero_payload`). -/
theorem refusalSetsItsStickyBitAndNothingElse : Obligations.RefusalSetsItsStickyBitAndNothingElse := by
  intro c s code
  have isCode : code = (causeCode c).toNat := by cases c <;> rfl
  rw [isCode]
  refine ⟨fun k => getLsbD_setErr c s.status k, rfl, rfl, ?_⟩
  rw [refuse_trace, rspWord_zero_payload]

/-! ### Which command is refused with which cause -/

/-- The columns of the table of rule R127 for one command; none where the command succeeds. `ILLEGAL` comes before
`NOT_INIT` (R129). `execIn_answers` ties it to the machine. -/
def commandCause (i : Instr) (s : State) : Option Cause :=
  match i with
  | .init _ _ _ => none
  | .advance => if heldRegs s = none then some .notInit else none
  | .nextSpeed => if heldRegs s = none then some .notInit else none
  | .convert hue _ _ => if 360 ≤ hue.toNat then some .domain else none
  | .clamp _ => none
  | .rdreg n =>
    if 7 ≤ n.toNat then some .illegal
    else if 1 ≤ n.toNat ∧ heldRegs s = none then some .notInit
    else none

/-- The columns of the table of rule R127 for every word, those that spell no command included. `acceptIn_answers` ties
it to the machine. -/
def wordCause (w : CmdWord) (s : State) : Option Cause :=
  match decode w with
  | .ok i => commandCause i s
  | .error _ => some .illegal

theorem wordCause_of_ok {w : CmdWord} {i : Instr} (decoded : decode w = .ok i) (s : State) :
    wordCause w s = commandCause i s := by
  simp only [wordCause, decoded]

theorem wordCause_of_error {w : CmdWord} {e : Reject} (rejected : decode w = .error e) (s : State) :
    wordCause w s = some .illegal := by
  simp only [wordCause, rejected]

/-- From `s` to `t` one command has been answered: refused with a cause, or with code `OK` after events that are no
response, every sticky bit as it was and `INITED` not cleared. -/
inductive Answers (s : State) : Option Cause → State → Prop where
  | refused (c : Cause) : Answers s (some c) (refuse c s)
  | ok {t : State} (evs : List OutEvent) (p : Payload) (sticky : stickyBits t.status = stickyBits s.status)
      (keepsInited : inited s = true → inited t = true) (silent : responsesOf evs = [])
      (grown : t.trace = s.trace ++ evs ++ [.response (rspWord okCode p)]) : Answers s none t

/-- A response `OK` without a channel write, after a change of registers 1 to 6 or after none. -/
theorem answers_respondOk {s u : State} (sameStatus : u.status = s.status) (sameTrace : u.trace = s.trace)
    (p : Payload) : Answers s none (respondOk p u) := by
  refine .ok [] p ?_ ?_ rfl ?_
  · rw [respondOk_status, sameStatus]
  · intro isInited
    rwa [inited, respondOk_status, sameStatus]
  · rw [respondOk_trace, sameTrace, List.append_nil]

theorem initIn_answers (cfg : Cfg) (sat val : BitVec 8) (seed : BitVec 32) (s : State) :
    Answers s none (initIn cfg sat val seed s) := by
  refine .ok [] 0#48 (stickyBits_setInited s.status) (fun _ => statusInited_setInited s.status) rfl ?_
  simp [initIn]

theorem advanceIn_answers (cfg : Cfg) (s : State) : Answers s (commandCause .advance s) (advanceIn cfg s) := by
  rcases advanceIn_cases cfg s with ⟨empty, refused⟩ | ⟨r, running, ticked⟩
  · rw [refused, commandCause, if_pos empty]
    exact .refused _
  · have succeeds : commandCause .advance s = none := by simp [commandCause, running]
    rw [succeeds]
    refine .ok _ _ ?_ ?_ rfl (execIn_advance_trace_of_running cfg running)
    · rw [ticked, respondOk_status, emitTriple_status, setHeld_status]
    · intro isInited
      rwa [inited, ticked, respondOk_status, emitTriple_status, setHeld_status]

theorem nextSpeedIn_answers (cfg : Cfg) (s : State) : Answers s (commandCause .nextSpeed s) (nextSpeedIn cfg s) := by
  rcases nextSpeedIn_cases cfg s with ⟨empty, refused⟩ | ⟨r, running, drawn⟩
  · rw [refused, commandCause, if_pos empty]
    exact .refused _
  · have succeeds : commandCause .nextSpeed s = none := by simp [commandCause, running]
    rw [succeeds, drawn]
    exact answers_respondOk (setHeld_status ..) (setHeld_trace ..) _

theorem convertIn_answers (cfg : Cfg) (hue : BitVec 9) (sat val : BitVec 8) (s : State) :
    Answers s (commandCause (.convert hue sat val) s) (convertIn cfg hue sat val s) := by
  rcases convertIn_cases cfg hue sat val s with ⟨outside, refused⟩ | ⟨h, inside, answered⟩
  · rw [refused, commandCause, if_pos outside]
    exact .refused _
  · have notOutside : ¬ 360 ≤ hue.toNat := by rw [inside]; exact h.isLt.not_ge
    rw [answered, commandCause, if_neg notOutside]
    exact answers_respondOk rfl rfl _

/-- Number 0 is `STATUS` and no other number is (R22). -/
theorem regOfNumber_eq_status {n : BitVec 4} : regOfNumber n = some .status ↔ n = 0#4 := by
  revert n; decide

/-- A number that names a register names `STATUS` or one of registers 1 to 6 (R22). -/
theorem number_of_named {n : BitVec 4} {reg : RegName} (named : regOfNumber n = some reg) :
    ¬ 7 ≤ n.toNat ∧ (reg ≠ .status ↔ 1 ≤ n.toNat) := by
  have inTable : ¬ 7 ≤ n.toNat := fun beyond => by simp [regOfNumber_eq_none.mpr beyond] at named
  have isStatus : reg = .status ↔ n = 0#4 := by rw [← regOfNumber_eq_status, named, Option.some.injEq]
  have isZero : n = 0#4 ↔ n.toNat = 0 := BitVec.toNat_inj.symm
  refine ⟨inTable, ?_⟩
  rw [ne_eq, isStatus, isZero]
  omega

theorem rdregIn_answers (n : BitVec 4) (s : State) : Answers s (commandCause (.rdreg n) s) (rdregIn n s) := by
  rcases rdregIn_cases n s with ⟨beyond, refused⟩ | ⟨reg, named, unread, refused⟩ | ⟨reg, v, named, read, answered⟩
  · rw [refused, commandCause, if_pos beyond]
    exact .refused _
  · obtain ⟨inTable, isHeld⟩ := number_of_named named
    obtain ⟨notStatus, empty⟩ := readReg_eq_none.mp unread
    rw [refused, commandCause, if_neg inTable, if_pos ⟨isHeld.mp notStatus, empty⟩]
    exact .refused _
  · obtain ⟨inTable, isHeld⟩ := number_of_named named
    have hasValue : ¬ (1 ≤ n.toNat ∧ heldRegs s = none) := fun ⟨atLeastOne, empty⟩ => by
      simp [readReg_eq_none.mpr ⟨isHeld.mpr atLeastOne, empty⟩] at read
    rw [answered, commandCause, if_neg inTable, if_neg hasValue]
    exact answers_respondOk rfl rfl _

/-- Every command is answered as its row of the table says (R127). -/
theorem execIn_answers (cfg : Cfg) (i : Instr) (s : State) : Answers s (commandCause i s) (execIn cfg i s) := by
  cases i with
  | init sat val seed => exact initIn_answers cfg sat val seed s
  | advance => exact advanceIn_answers cfg s
  | nextSpeed => exact nextSpeedIn_answers cfg s
  | convert hue sat val => exact convertIn_answers cfg hue sat val s
  | clamp x => exact answers_respondOk rfl rfl _
  | rdreg n => exact rdregIn_answers n s

theorem acceptIn_answers (cfg : Cfg) (w : CmdWord) (s : State) :
    Answers s (wordCause w s) (acceptIn cfg (.command w) s) := by
  cases decoded : decode w with
  | ok i => simpa only [acceptIn, decoded, wordCause_of_ok decoded] using execIn_answers cfg i s
  | error e => simpa only [acceptIn, decoded, wordCause_of_error decoded] using Answers.refused Cause.illegal

/-- The code of the response to a command with this verdict (R57, R126). -/
def verdictCode (verdict : Option Cause) : BitVec 4 := verdict.elim okCode causeCode

/-- An answer ends in one response, whose code tells the verdict. -/
theorem Answers.response {s t : State} {verdict : Option Cause} (answer : Answers s verdict t) :
    ∃ evs rsp, t.trace = s.trace ++ evs ++ [.response rsp] ∧ codeOf rsp = verdictCode verdict := by
  cases answer with
  | refused c => exact ⟨[], rspWord (causeCode c) 0#48, by rw [refuse_trace, List.append_nil], codeOf_rspWord ..⟩
  | ok evs p _ _ _ grown => exact ⟨evs, _, grown, codeOf_rspWord ..⟩

/-- Settles O33: in the running state no command misses a value, and the premises exclude the numbers and the hues that
the table has a cause for. -/
theorem runningCommandsSucceed : Obligations.RunningCommandsSucceed := by
  intro i s r running legal inDomain
  have succeeds : commandCause i s = none := by
    cases i with
    | init | clamp => rfl
    | advance | nextSpeed => simp [commandCause, running]
    | convert hue sat val => exact if_neg (inDomain hue sat val rfl).not_ge
    | rdreg n =>
      have register : n.toNat < 7 := of_decide_eq_true legal
      simp [commandCause, running, register]
  have answer := execIn_answers Config.cfg i s
  rw [succeeds] at answer
  obtain - | ⟨evs, p, sticky, -, -, grown⟩ := answer
  exact ⟨_, evs, _, exec_eq_execIn i s, sticky, grown, codeOf_rspWord ..⟩

/-! ### The table of rule R127, word by word -/

/-- Under the invariant commands see no value exactly while `INITED` is 0 (R30). -/
theorem heldRegs_eq_none_iff_not_inited {cfg : Cfg} {s : State} (ok : StateOk cfg s) :
    heldRegs s = none ↔ s.status.getLsbD 0 = false := by
  obtain ⟨-, agrees, -⟩ := ok
  refine ⟨fun empty => ?_, heldRegs_of_not_inited⟩
  rcases heldRegs_eq_none.mp empty with notInited | noneHeld
  · exact notInited
  · rw [noneHeld] at agrees
    exact agrees

/-- A word that spells a command is none of the words of the `ILLEGAL` column. -/
theorem not_illegalWord_of_decode {w : CmdWord} {i : Instr} (decoded : decode w = .ok i) : ¬ IllegalWord w := by
  rw [← decode_isError_iff, decoded]
  simp

/-- A word that spells a command carries the opcode of the command's row (R55). -/
theorem opField_of_spells {w : CmdWord} {i : Instr} (spelt : Spells w i) : opField w = opcodeOf i := by
  cases i with
  | init | advance | nextSpeed | convert | clamp | rdreg => exact spelt.1

/-- The columns `NOT_INIT` and `DOMAIN` for a word that spells a command, in terms of that command. -/
theorem commandCause_iff_columns {w : CmdWord} {i : Instr} (decoded : decode w = .ok i) (s : State) :
    commandCause i s ≠ some .illegal ∧
    (commandCause i s = some .notInit ↔ NeedsInit w ∧ heldRegs s = none) ∧
    (commandCause i s = some .domain ↔ HueOutside w) := by
  have spelt := spells_of_decode decoded
  have opcode : w.extractLsb' 60 4 = opcodeOf i := opField_of_spells spelt
  simp only [NeedsInit, HueOutside, opcode]
  cases i with
  | init | advance | nextSpeed | clamp => simp [commandCause, opcodeOf]
  | convert hue sat val =>
    obtain ⟨-, -, isHue, -⟩ := spelt
    simp [commandCause, opcodeOf, isHue]
  | rdreg n =>
    obtain ⟨-, -, register, isNumber⟩ := spelt
    have inTable : ¬ 7 ≤ n.toNat := register.not_ge
    by_cases needs : 1 ≤ n.toNat ∧ heldRegs s = none
    · simp [commandCause, opcodeOf, isNumber, inTable, needs]
    · simp [commandCause, opcodeOf, isNumber, inTable, needs]

/-- The three columns of the table, each with exactly its words. -/
theorem wordCause_iff_columns (w : CmdWord) (s : State) :
    (wordCause w s = some .illegal ↔ IllegalWord w) ∧
    (wordCause w s = some .notInit ↔ ¬ IllegalWord w ∧ NeedsInit w ∧ heldRegs s = none) ∧
    (wordCause w s = some .domain ↔ ¬ IllegalWord w ∧ HueOutside w) := by
  cases decoded : decode w with
  | error e =>
    have illegal : IllegalWord w := (decode_isError_iff w).mp ⟨e, decoded⟩
    simp only [wordCause_of_error decoded, illegal]
    simp
  | ok i =>
    have legal := not_illegalWord_of_decode decoded
    obtain ⟨notIllegal, needsInit, outside⟩ := commandCause_iff_columns decoded s
    rw [wordCause_of_ok decoded, iff_false_intro notIllegal, iff_false_intro legal, needsInit, outside]
    simp

/-- Each code stands for one verdict. -/
theorem verdictCode_iff (verdict : Option Cause) :
    (verdictCode verdict = 1#4 ↔ verdict = some .illegal) ∧ (verdictCode verdict = 3#4 ↔ verdict = some .notInit) ∧
    (verdictCode verdict = 2#4 ↔ verdict = some .domain) ∧
    (verdictCode verdict = 0#4 ↔ verdict ≠ some .illegal ∧ verdict ≠ some .notInit ∧ verdict ≠ some .domain) := by
  rcases verdict with _ | _ | _ | _ <;> decide

/-- Settles O32: the code of the response tells the verdict (`Answers.response`), and the verdict is the column the word
stands in (`wordCause_iff_columns`). -/
theorem refusalTable : Obligations.RefusalTable := by
  intro cfg s w rest ok presented
  obtain ⟨evs, rsp, grown, code⟩ := (acceptIn_answers cfg w (s.setInputs rest)).response
  obtain ⟨isIllegal, isNotInit, isDomain⟩ := wordCause_iff_columns w (s.setInputs rest)
  rw [heldRegs_eq_none_iff_not_inited (stateOk_setInputs ok rest), setInputs_status] at isNotInit
  refine ⟨evs, rsp, by rw [stepIn_of_command cfg presented, grown, setInputs_trace], ?_⟩
  obtain ⟨one, three, two, zero⟩ := verdictCode_iff (wordCause w (s.setInputs rest))
  rw [code, one, two, three, zero, ne_eq, ne_eq, ne_eq, isIllegal, isNotInit, isDomain]
  refine ⟨.rfl, .rfl, .rfl, and_congr_right fun legal => ?_⟩
  rw [iff_true_intro legal, true_and, true_and]

/-! ### Who clears a sticky bit -/

/-- No answer clears a sticky bit or `INITED` (R134, R105). -/
theorem Answers.keeps_status {s t : State} {verdict : Option Cause} (answer : Answers s verdict t) :
    stickyBits t.status &&& stickyBits s.status = stickyBits s.status ∧ (inited s = true → inited t = true) := by
  cases answer with
  | refused c =>
    refine ⟨?_, fun isInited => (inited_refuse c s).trans isInited⟩
    rw [refuse_status, stickyBits_setErr]
    ext k
    simpa using Or.inl
  | ok _ _ sticky keepsInited => exact ⟨by rw [sticky, BitVec.and_self], keepsInited⟩

theorem stepIn_of_reset (cfg : Cfg) {s : State} {rest : List Input} (presented : s.inputs = .reset :: rest) :
    stepIn cfg s = resetInput (s.setInputs rest) := by
  simp only [stepIn, takeInput_cons presented, acceptIn]

/-- Settles O43: an answer clears no bit (`Answers.keeps_status`), and the reset input leaves `STATUS` 0. -/
theorem stickyBitsAreClearedOnlyByReset : Obligations.StickyBitsAreClearedOnlyByReset := by
  refine ⟨fun cfg s w rest presented => ?_, fun cfg s rest presented => ?_⟩
  · rw [stepIn_of_command cfg presented]
    exact (acceptIn_answers cfg w (s.setInputs rest)).keeps_status
  · rw [stepIn_of_reset cfg presented, resetInput_status]
    decide

/-! ### `STATUS` tells whether a response was a refusal -/

theorem responsesOf_append (l l' : List OutEvent) : responsesOf (l ++ l') = responsesOf l ++ responsesOf l' :=
  List.filterMap_append

theorem responsesOf_response (w : RspWord) : responsesOf [.response w] = [w] := rfl

theorem causeCode_ne_ok (c : Cause) : causeCode c ≠ okCode := by
  cases c <;> decide

/-- A refusal sets a sticky bit and adds a response that is not `OK`; a success changes neither side. -/
theorem Answers.keeps_stickyOk {s t : State} {verdict : Option Cause} (answer : Answers s verdict t) (ok : StickyOk s) :
    StickyOk t := by
  cases answer with
  | refused c =>
    refine iff_of_false (stickyBits_setErr_ne_zero c s.status) fun allOk => ?_
    have last : rspWord (causeCode c) 0#48 ∈ responsesOf (refuse c s).trace := by
      rw [refuse_trace, responsesOf_append, responsesOf_response]
      exact List.mem_append_right _ List.mem_cons_self
    exact causeCode_ne_ok c ((codeOf_rspWord ..).symm.trans (allOk _ last))
  | ok evs p sticky _ silent grown =>
    have responses : responsesOf t.trace = responsesOf s.trace ++ [rspWord okCode p] := by
      rw [grown, responsesOf_append, responsesOf_append, silent, responsesOf_response, List.append_nil]
    have sameRefusals :
        (∀ w ∈ responsesOf t.trace, codeOf w = okCode) ↔ ∀ w ∈ responsesOf s.trace, codeOf w = okCode := by
      simp [responses, or_imp, forall_and]
    rw [StickyOk, sticky, sameRefusals]
    exact ok

theorem stepIn_keeps_stickyOk (cfg : Cfg) {s : State} (noReset : ∀ rest : List Input, s.inputs ≠ .reset :: rest)
    (ok : StickyOk s) : StickyOk (stepIn cfg s) := by
  cases presented : s.inputs with
  | nil => rwa [stepIn, takeInput_nil presented]
  | cons a rest =>
    cases a with
    | reset => exact absurd presented (noReset rest)
    | command w =>
      have ready : StickyOk (s.setInputs rest) := ok
      rw [stepIn_of_command cfg presented]
      exact (acceptIn_answers cfg w _).keeps_stickyOk ready

/-- Settles O55: a step without reset idles or answers a command, and no answer breaks the property
(`Answers.keeps_stickyOk`). -/
theorem everyStepWithoutResetKeepsStatusTellingOfRefusals :
    Obligations.EveryStepWithoutResetKeepsStatusTellingOfRefusals := by
  refine ⟨fun cfg s noReset ok => stepIn_keeps_stickyOk cfg noReset ok, fun s t noReset ok stepped => ?_⟩
  rw [eq_stepIn_of_step stepped]
  exact stepIn_keeps_stickyOk Config.cfg noReset ok

/-- A step takes the host's first action and leaves the others (R42, R45). -/
theorem stepIn_inputs (cfg : Cfg) (s : State) : (stepIn cfg s).inputs = s.inputs.tail := by
  cases presented : s.inputs with
  | nil => simp [stepIn, takeInput_nil presented, presented]
  | cons a rest => simp [stepIn, takeInput_cons presented, acceptIn_inputs]

/-- What the host does not present now it does not present later. -/
theorem not_mem_stepIn_inputs (cfg : Cfg) {s : State} {a : Input} (absent : a ∉ s.inputs) :
    a ∉ (stepIn cfg s).inputs := by
  rw [stepIn_inputs]
  exact fun left => absent (List.mem_of_mem_tail left)

/-- By induction on the number of steps, none of which takes a reset. -/
theorem runIn_keeps_stickyOk (cfg : Cfg) (k : Nat) {s : State} (noReset : .reset ∉ s.inputs) (ok : StickyOk s) :
    StickyOk (runIn cfg k s) := by
  induction k generalizing s with
  | zero => exact ok
  | succ k ih =>
    have notNext : ∀ rest : List Input, s.inputs ≠ .reset :: rest :=
      fun rest presented => noReset (presented ▸ List.mem_cons_self)
    exact ih (not_mem_stepIn_inputs cfg noReset) (stepIn_keeps_stickyOk cfg notNext ok)

/-- Settles O44: reset meets the property (O56), no action of the run is a reset, and such a run keeps the property
(`runIn_keeps_stickyOk`). -/
theorem statusTellsWhetherAnyRefusalHappened : Obligations.StatusTellsWhetherAnyRefusalHappened := by
  intro cfg ws k
  have onlyCommands : Input.reset ∉ ws.map Input.command := by simp
  obtain ⟨-, -, atReset⟩ := statusTellsOfRefusalsAfterReset
  exact runIn_keeps_stickyOk cfg k (s := { State.reset with inputs := ws.map Input.command }) onlyCommands atReset

/-! ### A refusal and the commands after it -/

/-- The state with the sticky bit of a cause set and nothing else changed: a refusal without its response. -/
def State.mark (c : Cause) (s : State) : State := s.setStatus (setErr c s.status)

theorem refuse_eq_mark (c : Cause) (s : State) :
    refuse c s = { s.mark c with trace := (refuse c s).trace } := rfl

@[simp] theorem heldRegs_mark (c : Cause) (s : State) : heldRegs (s.mark c) = heldRegs s := heldRegs_refuse c s

theorem readReg_mark {reg : RegName} (notStatus : reg ≠ .status) (c : Cause) (s : State) :
    readReg reg (s.mark c) = readReg reg s := by
  cases reg with
  | status => exact absurd rfl notStatus
  | seed | hueStep | stepCounter | currentSpeed | sat | val => simp only [readReg, heldRegs_mark]

@[simp] theorem respondOk_mark (p : Payload) (c : Cause) (s : State) :
    respondOk p (s.mark c) = (respondOk p s).mark c := rfl

@[simp] theorem setHeld_mark (r : Option HeldRegs) (c : Cause) (s : State) :
    (s.mark c).setHeld r = (s.setHeld r).mark c := rfl

@[simp] theorem emitTriple_mark (cfg : Cfg) (d : Triple) (c : Cause) (s : State) :
    emitTriple cfg d (s.mark c) = (emitTriple cfg d s).mark c := rfl

theorem setErr_comm (c' c : Cause) (st : BitVec 32) : setErr c' (setErr c st) = setErr c (setErr c' st) := by
  simp only [setErr, BitVec.or_assoc, BitVec.or_comm (errBit c)]

theorem setInited_setErr (c : Cause) (st : BitVec 32) : setInited (setErr c st) = setErr c (setInited st) := by
  simp only [setInited, setErr, BitVec.or_assoc, BitVec.or_comm (errBit c)]

/-- Sticky bits may be set in either order. -/
@[simp] theorem refuse_mark (c' c : Cause) (s : State) : refuse c' (s.mark c) = (refuse c' s).mark c :=
  state_eq (setErr_comm ..) rfl rfl rfl

@[simp] theorem initIn_mark (cfg : Cfg) (sat val : BitVec 8) (seed : BitVec 32) (c : Cause) (s : State) :
    initIn cfg sat val seed (s.mark c) = (initIn cfg sat val seed s).mark c :=
  state_eq (setInited_setErr ..) rfl rfl rfl

/-- Only `RDREG 0` shows a sticky bit: every other command does the same with the bit and without it, and leaves it
there. -/
theorem execIn_mark (cfg : Cfg) {i : Instr} (notStatus : i ≠ .rdreg 0#4) (c : Cause) (s : State) :
    execIn cfg i (s.mark c) = (execIn cfg i s).mark c := by
  cases i with
  | init sat val seed => exact initIn_mark cfg sat val seed c s
  | advance =>
    cases seen : heldRegs s with
    | none => simp [execIn, advanceIn, seen]
    | some r => simp [execIn, advanceIn, seen]
  | nextSpeed =>
    cases seen : heldRegs s with
    | none => simp [execIn, nextSpeedIn, seen]
    | some r => simp [execIn, nextSpeedIn, seen]
  | convert hue sat val =>
    cases domain : hueInDomain (operandValue hue) with
    | none => simp [execIn, convertIn, domain]
    | some h => simp [execIn, convertIn, domain]
  | clamp x => rfl
  | rdreg n =>
    cases named : regOfNumber n with
    | none => simp [execIn, rdregIn, named]
    | some reg =>
      have held : reg ≠ .status := by
        rintro rfl
        exact notStatus (congrArg Instr.rdreg (regOfNumber_eq_status.mp named))
      cases read : readReg reg s with
      | none => simp [execIn, rdregIn, named, readReg_mark held, read]
      | some v => simp [execIn, rdregIn, named, readReg_mark held, read]

/-- `RDREG 0` has one word (R55). -/
theorem eq_word_of_decode_rdreg_status {w : CmdWord} (decoded : decode w = .ok (.rdreg 0#4)) :
    w = 0x6000000000000000#64 := by
  obtain ⟨isWord, -⟩ := decodeThenEncodeReturnsTheWord w _ decoded
  rw [← isWord]
  decide

theorem acceptIn_command_mark (cfg : Cfg) {w : CmdWord} (notStatus : w ≠ 0x6000000000000000#64) (c : Cause)
    (s : State) :
    acceptIn cfg (.command w) (s.mark c) = (acceptIn cfg (.command w) s).mark c := by
  cases decoded : decode w with
  | ok i =>
    have otherCommand : i ≠ .rdreg 0#4 := by
      rintro rfl
      exact notStatus (eq_word_of_decode_rdreg_status decoded)
    simp only [acceptIn, decoded, execIn_mark cfg otherCommand]
  | error e => simp only [acceptIn, decoded, refuse_mark]

/-- The same state, or the same with the sticky bit of the cause set: how a run after a refusal differs from the run
without it. The bit is gone once a reset has been taken. -/
def SameUpToMark (c : Cause) (s s' : State) : Prop := s' = s ∨ s' = s.mark c

/-- A reset clears the bit in both states; a command that is not `RDREG 0` keeps the difference. -/
theorem stepIn_mark (cfg : Cfg) {s : State} (unseen : .command 0x6000000000000000#64 ∉ s.inputs) (c : Cause) :
    SameUpToMark c (stepIn cfg s) (stepIn cfg (s.mark c)) := by
  cases presented : s.inputs with
  | nil =>
    have presented' : (s.mark c).inputs = [] := presented
    rw [stepIn, stepIn, takeInput_nil presented, takeInput_nil presented']
    exact .inr rfl
  | cons a rest =>
    have presented' : (s.mark c).inputs = a :: rest := presented
    cases a with
    | reset =>
      rw [stepIn_of_reset cfg presented, stepIn_of_reset cfg presented']
      exact .inl rfl
    | command w =>
      have notStatus : w ≠ 0x6000000000000000#64 := by
        rintro rfl
        exact unseen (presented ▸ List.mem_cons_self)
      rw [stepIn_of_command cfg presented, stepIn_of_command cfg presented']
      exact .inr (acceptIn_command_mark cfg notStatus c (s.setInputs rest))

/-- By induction on the number of steps: once the bit is gone the two runs are one. -/
theorem runIn_mark (cfg : Cfg) (k : Nat) {s : State} (unseen : .command 0x6000000000000000#64 ∉ s.inputs) (c : Cause) :
    SameUpToMark c (runIn cfg k s) (runIn cfg k (s.mark c)) := by
  induction k generalizing s with
  | zero => exact .inr rfl
  | succ k ih =>
    rcases stepIn_mark cfg unseen c with same | marked
    · exact .inl (congrArg (runIn cfg k) same)
    · rw [runIn, runIn, marked]
      exact ih (not_mem_stepIn_inputs cfg unseen)

/-- Two such states hold the same but for the sticky bits. -/
theorem SameUpToMark.frame {c : Cause} {s s' : State} (same : SameUpToMark c s s') :
    s'.held = s.held ∧ s'.inputs = s.inputs ∧ s'.status ||| 0xE#32 = s.status ||| 0xE#32 ∧ s'.trace = s.trace := by
  rcases same with rfl | rfl
  · exact ⟨rfl, rfl, rfl, rfl⟩
  · have sticky : errBit c ||| 0xE#32 = 0xE#32 := by cases c <;> decide
    refine ⟨rfl, rfl, ?_, rfl⟩
    rw [State.mark, setStatus_status, setErr, BitVec.or_assoc, sticky]

/-- Settles O48: a refusal is a mark and one response (`refuse_eq_mark`); the run does not read the response
(`runIn_withTrace`) and does not show the mark (`runIn_mark`). -/
theorem refusedCommandsLeaveLaterOnesAlone : Obligations.RefusedCommandsLeaveLaterOnesAlone := by
  intro cfg c s k unseen t t'
  have alone : t = (runIn cfg k { s with trace := [] }).prependTrace s.trace := runIn_withTrace cfg k s s.trace
  have refused : t' = (runIn cfg k (State.mark c { s with trace := [] })).prependTrace (refuse c s).trace :=
    (congrArg (runIn cfg k) (refuse_eq_mark c s)).trans (runIn_withTrace cfg k (s.mark c) _)
  have same : SameUpToMark c (runIn cfg k { s with trace := [] }) (runIn cfg k (State.mark c { s with trace := [] })) :=
    runIn_mark cfg k (s := { s with trace := [] }) unseen c
  obtain ⟨sameHeld, sameInputs, sameStatus, sameTrace⟩ := same.frame
  rw [alone, refused]
  exact ⟨sameHeld, sameInputs, sameStatus, _, rfl, congrArg _ sameTrace⟩

end Sys2Proof.Machine
end

section
/-! PROOFS. The family of spec/70_reset_and_hazards.md: an idle step and the reset input, that a run takes every action the
host presents and answers every command, and what cannot happen before the first `INIT`. -/

namespace Sys2Proof.Machine

/-! ### An idle step and the reset input -/

theorem stepIn_of_idle (cfg : Cfg) {s : State} (idle : s.inputs = []) : stepIn cfg s = s := by
  simp only [stepIn, takeInput_nil idle]

/-- Whatever the state before, the reset input leaves the registers of a fresh block; the input list and the trace are no
state of the block and are kept (R145, R146). -/
theorem resetInput_eq (s : State) :
    resetInput s = { status := 0#32, held := none, inputs := s.inputs, trace := s.trace } := rfl

/-- Settles O35: the two steps are `stepIn_of_idle` and `stepIn_of_reset`, and after reset there is no value to see. -/
theorem idleStepAndResetInput : Obligations.IdleStepAndResetInput := by
  refine ⟨fun s idle => ?_, fun s rest presented => ?_, rfl, heldRegs_eq_none.mpr (.inr reset_held)⟩
  · rw [step_eq_stepIn, stepIn_of_idle _ idle]
  · rw [step_eq_stepIn, stepIn_of_reset _ presented, resetInput_eq, setInputs_inputs, setInputs_trace]

/-! ### Every command of a finite sequence is answered -/

/-- The machine never stops: `k` steps are `k` steps of the parametric machine at `Config.cfg`. -/
theorem run_core_eq_runIn (k : Nat) (s : State) :
    Host.Core.run Sys2Proof.core k s = .next (runIn Config.cfg k s) := by
  induction k generalizing s with
  | zero => rfl
  | succ k ih =>
    have stepped : Sys2Proof.core.step s = .next (stepIn Config.cfg s) := step_eq_stepIn s
    simpa only [Host.Core.run, runIn, stepped] using ih (stepIn Config.cfg s)

/-- From `s` to `t` some events have left the block, with `n` responses among them. -/
def GrowsByResponses (n : Nat) (s t : State) : Prop :=
  ∃ evs, t.trace = s.trace ++ evs ∧ (responsesOf evs).length = n

theorem GrowsByResponses.trans {m n : Nat} {s t u : State} (first : GrowsByResponses m s t)
    (second : GrowsByResponses n t u) : GrowsByResponses (m + n) s u := by
  obtain ⟨evs, grown, responses⟩ := first
  obtain ⟨evs', grown', responses'⟩ := second
  refine ⟨evs ++ evs', by rw [grown', grown, List.append_assoc], ?_⟩
  rw [responsesOf_append, List.length_append, responses, responses']

/-- An answer is one response, refused or not (R44, R128). -/
theorem Answers.growsByResponses {s t : State} {verdict : Option Cause} (answer : Answers s verdict t) :
    GrowsByResponses 1 s t := by
  cases answer with
  | refused c => exact ⟨_, refuse_trace c s, rfl⟩
  | ok evs p _ _ silent grown =>
    refine ⟨evs ++ [.response (rspWord okCode p)], by rw [grown, List.append_assoc], ?_⟩
    rw [responsesOf_append, silent, responsesOf_response]
    rfl

/-- A command is answered once and a reset is not answered (R44, R147). -/
theorem stepIn_growsByResponses (cfg : Cfg) {s : State} {a : Input} {rest : List Input}
    (presented : s.inputs = a :: rest) :
    GrowsByResponses ([a].filter Input.isCommand).length s (stepIn cfg s) := by
  cases a with
  | reset =>
    rw [stepIn_of_reset cfg presented]
    exact ⟨[], (List.append_nil _).symm, rfl⟩
  | command w =>
    rw [stepIn_of_command cfg presented]
    exact (acceptIn_answers cfg w (s.setInputs rest)).growsByResponses

/-- By induction on what the host presents: each step takes the first action and answers it if it is a command. -/
theorem runIn_takes_every_action (cfg : Cfg) {s : State} {l : List Input} (presented : s.inputs = l) :
    (runIn cfg l.length s).inputs = [] ∧
    GrowsByResponses (l.filter Input.isCommand).length s (runIn cfg l.length s) := by
  induction l generalizing s with
  | nil => exact ⟨presented, [], (List.append_nil _).symm, rfl⟩
  | cons a rest ih =>
    have left : (stepIn cfg s).inputs = rest := by rw [stepIn_inputs, presented, List.tail_cons]
    obtain ⟨taken, answered⟩ := ih left
    refine ⟨taken, ?_⟩
    rw [← List.singleton_append, List.filter_append, List.length_append]
    exact (stepIn_growsByResponses cfg presented).trans answered

/-- Settles O42: the machine runs as the parametric one (`run_core_eq_runIn`), which takes every action and answers every
command (`runIn_takes_every_action`). -/
theorem everyCommandOfAFiniteSequenceIsAnswered : Obligations.EveryCommandOfAFiniteSequenceIsAnswered := by
  intro s
  obtain ⟨taken, evs, grown, responses⟩ := runIn_takes_every_action Config.cfg (s := s) rfl
  refine ⟨_, run_core_eq_runIn _ s, taken, ?_, evs, grown⟩
  rw [grown, responsesOf_append, List.length_append, responses]

/-! ### Before the first `INIT` -/

/-- Nothing has reached the channel sink and registers 1 to 6 hold no value. -/
def Untouched (s : State) : Prop := chanWritesOf s.trace = [] ∧ s.held = none

/-- No command word that the host will present has the opcode of `INIT` (R55). -/
def NoInitAhead (s : State) : Prop := ∀ w : CmdWord, .command w ∈ s.inputs → opField w ≠ 0x1#4

theorem chanWritesOf_append_response (l : List OutEvent) (w : RspWord) :
    chanWritesOf (l ++ [.response w]) = chanWritesOf l := by
  simp [chanWritesOf]

theorem heldRegs_of_untouched {s : State} (untouched : Untouched s) : heldRegs s = none := by
  obtain ⟨-, empty⟩ := untouched
  exact heldRegs_eq_none.mpr (.inr empty)

theorem untouched_reset (l : List Input) : Untouched { State.reset with inputs := l } := ⟨rfl, rfl⟩

theorem untouched_setInputs {s : State} (untouched : Untouched s) (l : List Input) : Untouched (s.setInputs l) := untouched

/-- The reset input emits nothing (R147). -/
theorem untouched_resetInput {s : State} (untouched : Untouched s) : Untouched (resetInput s) := by
  obtain ⟨noWrite, -⟩ := untouched
  exact ⟨noWrite, resetInput_held s⟩

/-- A response is no channel write, and neither a response nor `STATUS` is one of registers 1 to 6. -/
theorem untouched_of_response {s t : State} {w : RspWord} (untouched : Untouched s)
    (grown : t.trace = s.trace ++ [.response w]) (sameHeld : t.held = s.held) : Untouched t := by
  obtain ⟨noWrite, empty⟩ := untouched
  exact ⟨by rw [grown, chanWritesOf_append_response, noWrite], by rw [sameHeld, empty]⟩

theorem untouched_refuse {s : State} (untouched : Untouched s) (c : Cause) : Untouched (refuse c s) :=
  untouched_of_response untouched (refuse_trace c s) (refuse_held c s)

/-- `ADVANCE` and `NEXT_SPEED` write a channel or a register only where the registers hold values (R127); of the other
commands only `INIT` writes one. -/
theorem execIn_keeps_untouched (cfg : Cfg) {i : Instr} {s : State} (notInit : ∀ sat val seed, i ≠ .init sat val seed)
    (untouched : Untouched s) : Untouched (execIn cfg i s) := by
  have empty := heldRegs_of_untouched untouched
  rcases execIn_cases cfg i s with ⟨c, refused⟩ | ⟨p, answered⟩ | ⟨sat, val, seed, isInit, -⟩ | ⟨r, -, running, -⟩ |
    ⟨r, -, running, -⟩
  · rw [refused]
    exact untouched_refuse untouched c
  · rw [answered]
    exact untouched_of_response untouched (respondOk_trace p s) (respondOk_held p s)
  · exact absurd isInit (notInit sat val seed)
  · simp [empty] at running
  · simp [empty] at running

/-- Only a word with the opcode of `INIT` spells `INIT` (R55). -/
theorem ne_init_of_opField {w : CmdWord} {i : Instr} (decoded : decode w = .ok i) (opcode : opField w ≠ 0x1#4)
    (sat val : BitVec 8) (seed : BitVec 32) : i ≠ .init sat val seed := by
  rintro rfl
  exact opcode (opField_of_spells (spells_of_decode decoded))

theorem stepIn_keeps_noInitAhead (cfg : Cfg) {s : State} (noInit : NoInitAhead s) : NoInitAhead (stepIn cfg s) := by
  intro w ahead
  rw [stepIn_inputs] at ahead
  exact noInit w (List.mem_of_mem_tail ahead)

/-- By cases on what the step does (`stepIn_cases`). -/
theorem stepIn_keeps_untouched (cfg : Cfg) {s : State} (noInit : NoInitAhead s) (untouched : Untouched s) :
    Untouched (stepIn cfg s) := by
  rcases stepIn_cases cfg s with ⟨-, idle⟩ | ⟨rest, -, cleared⟩ | ⟨w, rest, i, presented, decoded, ran⟩ |
    ⟨_, rest, _, -, -, refused⟩
  · rwa [idle]
  · rw [cleared]
    exact untouched_resetInput (untouched_setInputs untouched rest)
  · have opcode : opField w ≠ 0x1#4 := noInit w (presented ▸ List.mem_cons_self)
    rw [ran]
    exact execIn_keeps_untouched cfg (ne_init_of_opField decoded opcode) (untouched_setInputs untouched rest)
  · rw [refused]
    exact untouched_refuse (untouched_setInputs untouched rest) .illegal

/-- By induction on the number of steps, none of which takes an opcode of `INIT`. -/
theorem runIn_keeps_untouched (cfg : Cfg) (k : Nat) {s : State} (noInit : NoInitAhead s) (untouched : Untouched s) :
    Untouched (runIn cfg k s) := by
  induction k generalizing s with
  | zero => exact untouched
  | succ k ih => exact ih (stepIn_keeps_noInitAhead cfg noInit) (stepIn_keeps_untouched cfg noInit untouched)

/-- Settles O49: sink and registers are untouched after reset, and a run without an opcode of `INIT` keeps them so
(`runIn_keeps_untouched`). -/
theorem noChannelWriteBeforeInit : Obligations.NoChannelWriteBeforeInit :=
  fun cfg l k noInit => runIn_keeps_untouched cfg k noInit (untouched_reset l)

end Sys2Proof.Machine
end
